-- ==== Sys2Proof/Word.lean ====
section
/-! DEFINITION. The words of the block (00_scope.md R8, R10): every value is unsigned and 8 or 16 bits wide. -/

namespace Sys2Proof

/-- `u8` (R10): what one access moves (R68). -/
abbrev Byte := BitVec 8

/-- `u16` (R10): a CPU address; `a + b` is the spec's `a +16 b`. -/
abbrev Addr := BitVec 16

/-- The 25-bit transaction word of one CPU access (30_encoding.md R80). -/
abbrev TransactionWord := BitVec 25

/-- The 18-bit host command word (R81). -/
abbrev HostWord := BitVec 18

/-- The 16-bit decoded command word (R84). -/
abbrev CommandWord := BitVec 16

/-- The presence table, a dense set of 65 536 membership flags indexed by address (10_state.md R23, R63). -/
abbrev Presence := BitVec 65536

/-- The bytes of all physical regions: (physical byte number, byte), see Machine/Memory.lean. -/
abbrev Memory := List Host.Cell

end Sys2Proof
end

