-- ==== Sys2Proof/Machine/Flags.lean ====
section
/-! DEFINITION. The status values the block computes (30_encoding.md R95, R98). There is no flags register (10_state.md
R37): status lives in memory bytes and in the keyboard status. -/

namespace Sys2Proof.Machine

/-- The acknowledge or echo `V OR 0x80` (R95, R177). -/
def ackOf (v : Byte) : Byte := v ||| 0x80#8

/-- NAK, "device not present" (R95, R157), and the keyboard's probe response (R172). -/
def nakByte : Byte := 0x9B#8

/-- Keyboard ready, or read complete (R95). -/
def kbdReady : Byte := 0x80#8

/-- Keyboard read short (R95). -/
def kbdShort : Byte := 0x8C#8

/-- `min(V, 15)` (R98, R128). -/
def capCount (v : Byte) : Byte := if v.toNat ≤ 15 then v else 15#8

end Sys2Proof.Machine
end

