-- ==== Sys2Proof/Syntax.lean ====
section
/-! DEFINITION. The operations of the block, one constructor for each mnemonic of spec/opcode_table.json (30_encoding.md
R92). The operand `v` is field V of the decoded command word. The address A of a CPU access is no field of that word: it
stands on the address port (State.addr). -/

namespace Sys2Proof

/-- The header's region classes (R85): 1 HDR0, 2 HDR12, 3 HDR3. -/
inductive HdrClass where
  | command | target | count
  deriving DecidableEq, Repr

/-- Device classes (R86): 1 KBD, 2 PRN, 3 DSK, 4 TAP, 5 RPT, 6 UNK. -/
inductive DevClass where
  | kbd | prn | dsk | tap | rpt | unk
  deriving DecidableEq, Repr

/-- What an access is aimed at: the region class REG of R85 with, for class 4 DCBCMD, the device class DEV of R86. -/
inductive Target where
  | plain
  | hdr (h : HdrClass)
  | dcbCmd (dev : DevClass)
  | dcbPar
  deriving DecidableEq, Repr

/-- One operation with its operands (R92, R81). -/
inductive Instr where
  | plainRd
  | plainWr (v : Byte)
  | hdrRd (h : HdrClass)
  | hdrNop
  | hdrSyncCpu
  | hdrSyncPctl
  | hdrRelocate
  | hdrUnimpl (v : Byte)
  | hdrHigh (v : Byte)
  | hdrParamWr (v : Byte)
  | hdrCountWr (v : Byte)
  | kbdStatusRd
  | dcbCmdRd (dev : DevClass)
  | dcbParRd
  | dcbParWr (v : Byte)
  | dcbCmdIgnore (dev : DevClass) (v : Byte)
  | kbdSync (v : Byte)
  | kbdProbe
  | kbdReadbuf
  | kbdUndef (v : Byte)
  | prnCmd (v : Byte)
  | dskCmd (v : Byte)
  | tapCmd (v : Byte)
  | dskRepeat (v : Byte)
  | unkNak (v : Byte)
  | reset
  | key (code : BitVec 16)
  deriving DecidableEq, Repr

/-- The mnemonics of the opcode table. -/
inductive Mnemonic where
  | PLAIN_RD | PLAIN_WR | HDR_RD | HDR_NOP | HDR_SYNC_CPU | HDR_SYNC_PCTL | HDR_RELOCATE | HDR_UNIMPL | HDR_HIGH
  | HDR_PARAM_WR | HDR_COUNT_WR | KBD_STATUS_RD | DCB_CMD_RD | DCB_PAR_RD | DCB_PAR_WR | DCB_CMD_IGNORE | KBD_SYNC
  | KBD_PROBE | KBD_READBUF | KBD_UNDEF | PRN_CMD | DSK_CMD | TAP_CMD | DSK_REPEAT | UNK_NAK | RESET | KEY
  deriving DecidableEq, Repr

/-- The mnemonic of an operation. -/
def Instr.mnemonic : Instr → Mnemonic
  | .plainRd => .PLAIN_RD
  | .plainWr _ => .PLAIN_WR
  | .hdrRd _ => .HDR_RD
  | .hdrNop => .HDR_NOP
  | .hdrSyncCpu => .HDR_SYNC_CPU
  | .hdrSyncPctl => .HDR_SYNC_PCTL
  | .hdrRelocate => .HDR_RELOCATE
  | .hdrUnimpl _ => .HDR_UNIMPL
  | .hdrHigh _ => .HDR_HIGH
  | .hdrParamWr _ => .HDR_PARAM_WR
  | .hdrCountWr _ => .HDR_COUNT_WR
  | .kbdStatusRd => .KBD_STATUS_RD
  | .dcbCmdRd _ => .DCB_CMD_RD
  | .dcbParRd => .DCB_PAR_RD
  | .dcbParWr _ => .DCB_PAR_WR
  | .dcbCmdIgnore _ _ => .DCB_CMD_IGNORE
  | .kbdSync _ => .KBD_SYNC
  | .kbdProbe => .KBD_PROBE
  | .kbdReadbuf => .KBD_READBUF
  | .kbdUndef _ => .KBD_UNDEF
  | .prnCmd _ => .PRN_CMD
  | .dskCmd _ => .DSK_CMD
  | .tapCmd _ => .TAP_CMD
  | .dskRepeat _ => .DSK_REPEAT
  | .unkNak _ => .UNK_NAK
  | .reset => .RESET
  | .key _ => .KEY

/-- One CPU access (60_exceptions.md R208): a read, or a write of `data`. -/
structure Access where
  we   : Bool
  addr : Addr
  data : Byte
  deriving DecidableEq, Repr

/-- The words that name an operation: the decoded command word of a CPU access, or the host command word. -/
inductive OpWord where
  | dcw (w : CommandWord)
  | hw (w : HostWord)
  deriving DecidableEq, Repr

end Sys2Proof
end

