-- ==== Sys2Proof/WellFormed.lean ====
section
/-! DEFINITION. The operand ranges of the operations (30_encoding.md R92, R94): what no row of the opcode table encodes is
ill-formed. -/

namespace Sys2Proof

/-- A command value, 0x01..0x7F (R94). -/
def isCommand (v : Byte) : Bool := v ≠ 0x00#8 && v.toNat < 0x80

/-- Checks every operand against its row in R92. -/
def Instr.wf : Instr → Bool
  | .plainRd | .hdrNop | .hdrSyncCpu | .hdrSyncPctl | .hdrRelocate | .kbdStatusRd | .dcbParRd | .kbdProbe
  | .kbdReadbuf | .reset => true
  | .plainWr _ | .hdrRd _ | .hdrParamWr _ | .hdrCountWr _ | .dcbParWr _ | .key _ => true
  | .hdrUnimpl v => 0x04 ≤ v.toNat && v.toNat < 0x80
  | .hdrHigh v => 0x80 ≤ v.toNat
  | .dcbCmdRd dev => dev ≠ .kbd
  | .dcbCmdIgnore _ v => !isCommand v
  | .kbdSync v => v = 0x01#8 || v = 0x02#8
  | .kbdUndef v => 0x05 ≤ v.toNat && v.toNat < 0x80
  | .prnCmd v | .dskCmd v | .tapCmd v | .dskRepeat v | .unkNak v => isCommand v

end Sys2Proof
end

