-- ==== Sys2Proof/Decode.lean ====
section
/-! DEFINITION. Decoding and encoding (30_encoding.md R80 to R86, R92, R93): the transaction word, the host word and the
decoded command word. Which command word an access gives depends on the state and stands in Machine/Fetch.lean (R83). -/

namespace Sys2Proof

/-- Why a word names no operation (R93). -/
inductive DecodeReject where
  /-- REG is 6 or 7. -/
  | reservedRegion
  /-- DEV is not 0 although REG is not 4. -/
  | strayDevice
  /-- REG is 4 and DEV is 0 or 7..15. -/
  | reservedDevice
  /-- A read whose V is not 0. -/
  | readWithData
  /-- A host word with OP 0b00 or 0b11. -/
  | reservedHostOp
  deriving DecidableEq, Repr

/-- The fields of a transaction word (R80); the D field of a read is ignored (R93). -/
def Access.ofWord (w : TransactionWord) : Access :=
  let we := w.getLsbD 24
  { we := we
    addr := w.extractLsb' 8 16
    data := if we then w.extractLsb' 0 8 else 0x00#8 }

/-- The transaction word of an access (R80). -/
def Access.toWord (x : Access) : TransactionWord :=
  BitVec.ofBool x.we ++ x.addr ++ (if x.we then x.data else 0x00#8)

/-- Field REG of a target (R85). -/
def Target.reg : Target → BitVec 3
  | .plain => 0#3
  | .hdr .command => 1#3
  | .hdr .target => 2#3
  | .hdr .count => 3#3
  | .dcbCmd _ => 4#3
  | .dcbPar => 5#3

/-- The DEV value of a device class (R86). -/
def DevClass.bits : DevClass → BitVec 4
  | .kbd => 1#4
  | .prn => 2#4
  | .dsk => 3#4
  | .tap => 4#4
  | .rpt => 5#4
  | .unk => 6#4

/-- Field DEV of a target: 0 unless REG is 4 (R84, R86). -/
def Target.dev : Target → BitVec 4
  | .dcbCmd dev => dev.bits
  | .plain | .hdr _ | .dcbPar => 0#4

/-- `{WE, REG, DEV, V}` (R83, R84). -/
def packCommand (we : Bool) (t : Target) (v : Byte) : CommandWord :=
  BitVec.ofBool we ++ t.reg ++ t.dev ++ v

/-- The device class a DEV field names (R86). -/
def DevClass.ofBits (d : BitVec 4) : Option DevClass :=
  if d = 1#4 then some .kbd
  else if d = 2#4 then some .prn
  else if d = 3#4 then some .dsk
  else if d = 4#4 then some .tap
  else if d = 5#4 then some .rpt
  else if d = 6#4 then some .unk
  else none

/-- The target that REG and DEV name (R85, R86), reserved values rejected (R93). -/
def Target.ofBits (reg : BitVec 3) (dev : BitVec 4) : Except DecodeReject Target :=
  if reg = 4#3 then
    match DevClass.ofBits dev with
    | some d => .ok (.dcbCmd d)
    | none => .error .reservedDevice
  else if reg = 6#3 ∨ reg = 7#3 then .error .reservedRegion
  else if dev ≠ 0#4 then .error .strayDevice
  else if reg = 0#3 then .ok .plain
  else if reg = 1#3 then .ok (.hdr .command)
  else if reg = 2#3 then .ok (.hdr .target)
  else if reg = 3#3 then .ok (.hdr .count)
  else .ok .dcbPar

/-- The rows of R92 with W = 0. -/
def decodeRead : Target → Instr
  | .plain => .plainRd
  | .hdr h => .hdrRd h
  | .dcbPar => .dcbParRd
  | .dcbCmd .kbd => .kbdStatusRd
  | .dcbCmd dev => .dcbCmdRd dev

/-- The rows of R92 with W = 1 and REG = 1, the header command byte. -/
def decodeHeaderCommand (v : Byte) : Instr :=
  if v = 0x00#8 then .hdrNop
  else if v = 0x01#8 then .hdrSyncCpu
  else if v = 0x02#8 then .hdrSyncPctl
  else if v = 0x03#8 then .hdrRelocate
  else if v.toNat < 0x80 then .hdrUnimpl v
  else .hdrHigh v

/-- The rows of R92 with W = 1, REG = 4 and a command value. -/
def decodeDeviceCommand (dev : DevClass) (v : Byte) : Instr :=
  match dev with
  | .kbd =>
    if v = 0x01#8 ∨ v = 0x02#8 then .kbdSync v
    else if v = 0x03#8 then .kbdProbe
    else if v = 0x04#8 then .kbdReadbuf
    else .kbdUndef v
  | .prn => .prnCmd v
  | .dsk => .dskCmd v
  | .tap => .tapCmd v
  | .rpt => .dskRepeat v
  | .unk => .unkNak v

/-- The rows of R92 with W = 1. -/
def decodeWrite (t : Target) (v : Byte) : Instr :=
  match t with
  | .plain => .plainWr v
  | .hdr .command => decodeHeaderCommand v
  | .hdr .target => .hdrParamWr v
  | .hdr .count => .hdrCountWr v
  | .dcbPar => .dcbParWr v
  | .dcbCmd dev => if v = 0x00#8 ∨ 0x80 ≤ v.toNat then .dcbCmdIgnore dev v else decodeDeviceCommand dev v

/-- The operation of a decoded command word (R92); a word R83 never produces is rejected (R93). -/
def decodeCommand (w : CommandWord) : Except DecodeReject Instr :=
  let v := w.extractLsb' 0 8
  match Target.ofBits (w.extractLsb' 12 3) (w.extractLsb' 8 4) with
  | .error r => .error r
  | .ok t =>
    if w.getLsbD 15 then .ok (decodeWrite t v)
    else if v = 0x00#8 then .ok (decodeRead t)
    else .error .readWithData

/-- The operation of a host word (R81, R92): OP 0b01 is RESET with CODE ignored, 0b10 is KEY, the rest reserved (R93). -/
def decodeHost (w : HostWord) : Except DecodeReject Instr :=
  let op := w.extractLsb' 16 2
  if op = 0b01#2 then .ok .reset
  else if op = 0b10#2 then .ok (.key (w.extractLsb' 0 16))
  else .error .reservedHostOp

/-- The operation a word names. -/
def decode : OpWord → Except DecodeReject Instr
  | .dcw w => decodeCommand w
  | .hw w => decodeHost w

/-- The word of an operation (R92, R81). -/
def encode : Instr → OpWord
  | .plainRd => .dcw (packCommand false .plain 0x00#8)
  | .plainWr v => .dcw (packCommand true .plain v)
  | .hdrRd h => .dcw (packCommand false (.hdr h) 0x00#8)
  | .hdrNop => .dcw (packCommand true (.hdr .command) 0x00#8)
  | .hdrSyncCpu => .dcw (packCommand true (.hdr .command) 0x01#8)
  | .hdrSyncPctl => .dcw (packCommand true (.hdr .command) 0x02#8)
  | .hdrRelocate => .dcw (packCommand true (.hdr .command) 0x03#8)
  | .hdrUnimpl v => .dcw (packCommand true (.hdr .command) v)
  | .hdrHigh v => .dcw (packCommand true (.hdr .command) v)
  | .hdrParamWr v => .dcw (packCommand true (.hdr .target) v)
  | .hdrCountWr v => .dcw (packCommand true (.hdr .count) v)
  | .kbdStatusRd => .dcw (packCommand false (.dcbCmd .kbd) 0x00#8)
  | .dcbCmdRd dev => .dcw (packCommand false (.dcbCmd dev) 0x00#8)
  | .dcbParRd => .dcw (packCommand false .dcbPar 0x00#8)
  | .dcbParWr v => .dcw (packCommand true .dcbPar v)
  | .dcbCmdIgnore dev v => .dcw (packCommand true (.dcbCmd dev) v)
  | .kbdSync v => .dcw (packCommand true (.dcbCmd .kbd) v)
  | .kbdProbe => .dcw (packCommand true (.dcbCmd .kbd) 0x03#8)
  | .kbdReadbuf => .dcw (packCommand true (.dcbCmd .kbd) 0x04#8)
  | .kbdUndef v => .dcw (packCommand true (.dcbCmd .kbd) v)
  | .prnCmd v => .dcw (packCommand true (.dcbCmd .prn) v)
  | .dskCmd v => .dcw (packCommand true (.dcbCmd .dsk) v)
  | .tapCmd v => .dcw (packCommand true (.dcbCmd .tap) v)
  | .dskRepeat v => .dcw (packCommand true (.dcbCmd .rpt) v)
  | .unkNak v => .dcw (packCommand true (.dcbCmd .unk) v)
  | .reset => .hw (0b01#2 ++ 0#16)
  | .key code => .hw (0b10#2 ++ code)

/-- A row of spec/opcode_table.json keyed on the decoded command word. -/
structure OpcodeRow where
  name : Mnemonic
  pat  : CommandWord
  mask : CommandWord
  deriving DecidableEq, Repr

/-- A command word matches a row. -/
def OpcodeRow.matches (r : OpcodeRow) (w : CommandWord) : Bool := w &&& r.mask = r.pat

/-- The word a row of the opcode table stands for: 16 bits (or fewer) are a decoded command word, more are a host word,
whose bits above 17 are 0. -/
def decodeTableWord (nbits w : Nat) : Option Instr :=
  if nbits ≤ 16 then
    if w < 2 ^ 16 then (decodeCommand (BitVec.ofNat 16 w)).toOption else none
  else
    if w < 2 ^ 18 then (decodeHost (BitVec.ofNat 18 w)).toOption else none

/-- The Plain rows of the opcode table (R92). -/
def opcodeRowsPlain : List OpcodeRow :=
  [⟨.PLAIN_RD, 0x0000#16, 0xFFFF#16⟩, ⟨.PLAIN_WR, 0x8000#16, 0xFF00#16⟩]

/-- The header rows of the opcode table (R92). -/
def opcodeRowsHeader : List OpcodeRow :=
  [⟨.HDR_RD, 0x1000#16, 0xFFFF#16⟩, ⟨.HDR_RD, 0x2000#16, 0xFFFF#16⟩, ⟨.HDR_RD, 0x3000#16, 0xFFFF#16⟩,
   ⟨.HDR_NOP, 0x9000#16, 0xFFFF#16⟩, ⟨.HDR_SYNC_CPU, 0x9001#16, 0xFFFF#16⟩, ⟨.HDR_SYNC_PCTL, 0x9002#16, 0xFFFF#16⟩,
   ⟨.HDR_RELOCATE, 0x9003#16, 0xFFFF#16⟩, ⟨.HDR_UNIMPL, 0x9004#16, 0xFFFC#16⟩, ⟨.HDR_UNIMPL, 0x9008#16, 0xFFF8#16⟩,
   ⟨.HDR_UNIMPL, 0x9010#16, 0xFFF0#16⟩, ⟨.HDR_UNIMPL, 0x9020#16, 0xFFE0#16⟩, ⟨.HDR_UNIMPL, 0x9040#16, 0xFFC0#16⟩,
   ⟨.HDR_HIGH, 0x9080#16, 0xFF80#16⟩, ⟨.HDR_PARAM_WR, 0xA000#16, 0xFF00#16⟩, ⟨.HDR_COUNT_WR, 0xB000#16, 0xFF00#16⟩]

/-- The DCB access rows of the opcode table (R92). -/
def opcodeRowsDcb : List OpcodeRow :=
  [⟨.DCB_CMD_RD, 0x4200#16, 0xFFFF#16⟩, ⟨.DCB_CMD_RD, 0x4300#16, 0xFFFF#16⟩, ⟨.DCB_CMD_RD, 0x4400#16, 0xFFFF#16⟩,
   ⟨.DCB_CMD_RD, 0x4500#16, 0xFFFF#16⟩, ⟨.DCB_CMD_RD, 0x4600#16, 0xFFFF#16⟩, ⟨.DCB_PAR_RD, 0x5000#16, 0xFFFF#16⟩,
   ⟨.DCB_PAR_WR, 0xD000#16, 0xFF00#16⟩, ⟨.DCB_CMD_IGNORE, 0xC100#16, 0xFFFF#16⟩, ⟨.DCB_CMD_IGNORE, 0xC180#16, 0xFF80#16⟩,
   ⟨.DCB_CMD_IGNORE, 0xC200#16, 0xFFFF#16⟩, ⟨.DCB_CMD_IGNORE, 0xC280#16, 0xFF80#16⟩, ⟨.DCB_CMD_IGNORE, 0xC300#16, 0xFFFF#16⟩,
   ⟨.DCB_CMD_IGNORE, 0xC380#16, 0xFF80#16⟩, ⟨.DCB_CMD_IGNORE, 0xC400#16, 0xFFFF#16⟩, ⟨.DCB_CMD_IGNORE, 0xC480#16, 0xFF80#16⟩,
   ⟨.DCB_CMD_IGNORE, 0xC500#16, 0xFFFF#16⟩, ⟨.DCB_CMD_IGNORE, 0xC580#16, 0xFF80#16⟩, ⟨.DCB_CMD_IGNORE, 0xC600#16, 0xFFFF#16⟩,
   ⟨.DCB_CMD_IGNORE, 0xC680#16, 0xFF80#16⟩]

/-- The keyboard rows of the opcode table (R92). -/
def opcodeRowsKeyboard : List OpcodeRow :=
  [⟨.KBD_STATUS_RD, 0x4100#16, 0xFFFF#16⟩, ⟨.KBD_SYNC, 0xC101#16, 0xFFFF#16⟩, ⟨.KBD_SYNC, 0xC102#16, 0xFFFF#16⟩,
   ⟨.KBD_PROBE, 0xC103#16, 0xFFFF#16⟩, ⟨.KBD_READBUF, 0xC104#16, 0xFFFF#16⟩, ⟨.KBD_UNDEF, 0xC105#16, 0xFFFF#16⟩,
   ⟨.KBD_UNDEF, 0xC106#16, 0xFFFE#16⟩, ⟨.KBD_UNDEF, 0xC108#16, 0xFFF8#16⟩, ⟨.KBD_UNDEF, 0xC110#16, 0xFFF0#16⟩,
   ⟨.KBD_UNDEF, 0xC120#16, 0xFFE0#16⟩, ⟨.KBD_UNDEF, 0xC140#16, 0xFFC0#16⟩]

/-- The printer and disk rows of the opcode table (R92). -/
def opcodeRowsPrinterDisk : List OpcodeRow :=
  [⟨.PRN_CMD, 0xC201#16, 0xFFFF#16⟩, ⟨.PRN_CMD, 0xC202#16, 0xFFFE#16⟩, ⟨.PRN_CMD, 0xC204#16, 0xFFFC#16⟩,
   ⟨.PRN_CMD, 0xC208#16, 0xFFF8#16⟩, ⟨.PRN_CMD, 0xC210#16, 0xFFF0#16⟩, ⟨.PRN_CMD, 0xC220#16, 0xFFE0#16⟩,
   ⟨.PRN_CMD, 0xC240#16, 0xFFC0#16⟩, ⟨.DSK_CMD, 0xC301#16, 0xFFFF#16⟩, ⟨.DSK_CMD, 0xC302#16, 0xFFFE#16⟩,
   ⟨.DSK_CMD, 0xC304#16, 0xFFFC#16⟩, ⟨.DSK_CMD, 0xC308#16, 0xFFF8#16⟩, ⟨.DSK_CMD, 0xC310#16, 0xFFF0#16⟩,
   ⟨.DSK_CMD, 0xC320#16, 0xFFE0#16⟩, ⟨.DSK_CMD, 0xC340#16, 0xFFC0#16⟩]

/-- The tape, repeat and unknown rows of the opcode table (R92). -/
def opcodeRowsOther : List OpcodeRow :=
  [⟨.TAP_CMD, 0xC401#16, 0xFFFF#16⟩, ⟨.TAP_CMD, 0xC402#16, 0xFFFE#16⟩, ⟨.TAP_CMD, 0xC404#16, 0xFFFC#16⟩,
   ⟨.TAP_CMD, 0xC408#16, 0xFFF8#16⟩, ⟨.TAP_CMD, 0xC410#16, 0xFFF0#16⟩, ⟨.TAP_CMD, 0xC420#16, 0xFFE0#16⟩,
   ⟨.TAP_CMD, 0xC440#16, 0xFFC0#16⟩, ⟨.DSK_REPEAT, 0xC501#16, 0xFFFF#16⟩, ⟨.DSK_REPEAT, 0xC502#16, 0xFFFE#16⟩,
   ⟨.DSK_REPEAT, 0xC504#16, 0xFFFC#16⟩, ⟨.DSK_REPEAT, 0xC508#16, 0xFFF8#16⟩, ⟨.DSK_REPEAT, 0xC510#16, 0xFFF0#16⟩,
   ⟨.DSK_REPEAT, 0xC520#16, 0xFFE0#16⟩, ⟨.DSK_REPEAT, 0xC540#16, 0xFFC0#16⟩, ⟨.UNK_NAK, 0xC601#16, 0xFFFF#16⟩,
   ⟨.UNK_NAK, 0xC602#16, 0xFFFE#16⟩, ⟨.UNK_NAK, 0xC604#16, 0xFFFC#16⟩, ⟨.UNK_NAK, 0xC608#16, 0xFFF8#16⟩,
   ⟨.UNK_NAK, 0xC610#16, 0xFFF0#16⟩, ⟨.UNK_NAK, 0xC620#16, 0xFFE0#16⟩, ⟨.UNK_NAK, 0xC640#16, 0xFFC0#16⟩]

/-- All 82 rows keyed on the decoded command word. -/
def opcodeRows : List OpcodeRow :=
  opcodeRowsPlain ++ opcodeRowsHeader ++ opcodeRowsDcb ++ opcodeRowsKeyboard ++ opcodeRowsPrinterDisk ++ opcodeRowsOther

end Sys2Proof
end

