-- ==== Sys2Proof/Config.lean ====
section
/-! DEFINITION. What an implementation fixes (00_scope.md R9), as plain data, and the one free function, the media
subsystem. The reference values (20_memory.md R57) stand in Machine/Reference.lean. -/

namespace Sys2Proof

/-- Kinds of physical region (20_memory.md R50). -/
inductive RegionKind where
  | ram | rom | sink
  deriving DecidableEq, Repr

/-- Physical regions (R50, R57): the ones the source names, the one Sink, and any others (its "etc."). -/
inductive Region where
  | mainRAM | expRAM | writerROM | osROM | expROM | cartROM | sink
  | otherRAM (n : Nat)
  | otherROM (n : Nat)
  deriving DecidableEq, Repr

/-- A page handle (R52): a region and the 8 KiB frame of it that the page shows. -/
structure Handle where
  region : Region
  frame  : Nat
  deriving DecidableEq, Repr

/-- What one value of the mapping mode selects (R32, R52, R9): a read handle and a write handle for each of the 8 pages,
and for each of the 3 bands whether the mode routes it onto bus-owning memory. -/
structure ModeMap where
  read   : Vector Handle 8
  write  : Vector Handle 8
  routed : Vector Bool 3
  deriving DecidableEq, Repr

/-- A physical region and its size in frames of 0x2000 bytes (R50). -/
structure RegionInfo where
  region : Region
  frames : Nat
  deriving DecidableEq, Repr

/-- The configuration parameters of R9. `modes` has one row for each value of the mapping mode, in order: the Mode type is
the finite type of the numbers below its length (log 12). -/
structure Config where
  regions     : List RegionInfo
  modes       : List ModeMap
  kbdPtrOff   : Nat
  kbdCntOff   : Nat
  kbdQueueCap : Nat
  deriving DecidableEq, Repr

/-- The media subsystems (30_encoding.md R82). -/
inductive MediaKind where
  | disk | tape
  deriving DecidableEq, Repr

/-- The OPEN parameter `mediaOp` of R9 (43_devices.md R186; 92_eei_decisions.md D18; log 3): the byte writes, in order,
that a media operation makes through the write view, as a function of the request, of the two page maps it works through
and of memory. It has no body, so a claim holds whatever the media subsystem does. -/
opaque Config.mediaWrites (kind : MediaKind) (index : Fin 4) (cmd : Byte) (dcb : Addr) (maps : ModeMap) (mem : Memory) :
    List (Addr × Byte)

end Sys2Proof
end

