-- ==== Sys2Proof/Machine/Memory.lean ====
section
/-! DEFINITION. The bytes of the physical regions (20_memory.md R50) as one list of (physical byte number, byte) in one
canonical form: numbers strictly rising, and no entry equal to what an unlisted byte reads as. -/

namespace Sys2Proof

/-- What a byte nothing has written reads as. The spec leaves power-on memory a launch parameter (70_reset R232, D25);
DESIGN CHOICE (log 5): 0x00, the value of its test configuration D29. -/
def Memory.unlisted : Byte := 0x00#8

/-- The byte with physical number `n`. -/
def Memory.get : Memory → Nat → Byte
  | [], _ => Memory.unlisted
  | (k, b) :: m, n => if k = n then b else Memory.get m n

/-- Puts one cell before `m`, or nothing when the byte is what an unlisted one reads as. -/
def Memory.consCell (n : Nat) (v : Byte) (m : Memory) : Memory :=
  if v = Memory.unlisted then m else (n, v) :: m

/-- Stores one byte, keeping the canonical form. -/
def Memory.set : Memory → Nat → Byte → Memory
  | [], n, v => Memory.consCell n v []
  | (k, b) :: m, n, v =>
    if n < k then Memory.consCell n v ((k, b) :: m)
    else if n = k then Memory.consCell n v m
    else (k, b) :: Memory.set m n v

/-- Every cell's number is above `lo` and strictly rising, and no cell holds the unlisted value. -/
def Memory.wfAbove : Nat → Memory → Bool
  | _, [] => true
  | lo, (k, b) :: m => lo ≤ k && b ≠ Memory.unlisted && Memory.wfAbove (k + 1) m

/-- The canonical form. -/
def Memory.wf (m : Memory) : Bool := Memory.wfAbove 0 m

end Sys2Proof
end

