-- ==== Sys2Proof/Machine/Presence.lean ====
section
/-! DEFINITION. The presence table (10_state.md R23; 41_header.md R131; 70_reset R230): 65 536 membership flags. -/

namespace Sys2Proof

/-- WINDOW_SIZE of R8: 4 header bytes and 15 DCBs of 21 bytes. -/
def windowSize : Nat := 319

/-- `presence[a]`. -/
def Presence.flag (p : Presence) (a : Addr) : Bool := p.getLsbD a.toNat

/-- The window at `b`: the addresses `(b + i) mod 2^16` for `i` in 0..318, a run of 319 flags turned to start at `b`
(20_memory.md R60). -/
def Presence.window (b : Addr) : Presence :=
  ((BitVec.allOnes windowSize).setWidth 65536).rotateLeft b.toNat

/-- `for i in 0..318: presence[(b + i) mod 2^16] <- false` (R131). -/
def Presence.clearWindow (p : Presence) (b : Addr) : Presence := p &&& ~~~(Presence.window b)

/-- `for i in 0..318: presence[(b + i) mod 2^16] <- true` (R131). -/
def Presence.setWindow (p : Presence) (b : Addr) : Presence := p ||| Presence.window b

/-- `presence[a] <- true`. -/
def Presence.setFlag (p : Presence) (a : Addr) : Presence := p ||| (1#65536 <<< a.toNat)

end Sys2Proof
end

