-- ==== Sys2Proof/Machine/PageMap.lean ====
section
/-! DEFINITION. The page selector (20_memory.md R51, R52, R58, R59) and which configurations are legal (00_scope.md R9). -/

namespace Sys2Proof

/-- `kind(r)` of R50: RAM is readable and writable, ROM discards writes, the Sink is a write target only. -/
def Region.kind : Region → RegionKind
  | .mainRAM | .expRAM | .otherRAM _ => .ram
  | .writerROM | .osROM | .expROM | .cartROM | .otherROM _ => .rom
  | .sink => .sink

/-- A region's own number in the physical byte numbering (DESIGN CHOICE, log 9). -/
def Region.code : Region → Nat
  | .mainRAM => 0
  | .expRAM => 1
  | .writerROM => 2
  | .osROM => 3
  | .expROM => 4
  | .cartROM => 5
  | .sink => 6
  | .otherRAM n => 7 + 2 * n
  | .otherROM n => 8 + 2 * n

/-- `page(a) = a >> 13` (R51). -/
def page (a : Addr) : Fin 8 := ⟨a.toNat / 0x2000, by omega⟩

/-- `pofs(a) = a[12:0]` (R51). -/
def pofs (a : Addr) : Nat := a.toNat % 0x2000

/-- `band(a)` (R58). -/
def band (a : Addr) : Fin 3 :=
  if a.toNat < 0x2000 then 0 else if a.toNat < 0x8000 then 1 else 2

/-- The pages of a band (R58). -/
def bandPages (b : Fin 3) : List (Fin 8) :=
  if b = 0 then [0] else if b = 1 then [1, 2, 3] else [4, 5, 6, 7]

/-- The position within its region of the byte that address `a` selects through a handle (R52). -/
def Handle.offset (h : Handle) (a : Addr) : Nat := h.frame * 0x2000 + pofs a

/-- The number of the frame among the frames of all regions: the frames of main RAM that the CPU's pages can show at their
own address keep their own number, any other frame of any region follows by pairing (DESIGN CHOICE, log 9). -/
def Handle.pageNumber (h : Handle) : Nat :=
  if h.region = .mainRAM ∧ h.frame < 8 then h.frame else 8 + Nat.pair h.region.code h.frame

/-- The physical number of that byte (DESIGN CHOICE, log 9). -/
def Handle.phys (h : Handle) (a : Addr) : Nat := h.pageNumber * 0x2000 + pofs a

/-- Main RAM at the page's own address (R59). -/
def mainRamAt (p : Fin 8) : Handle := { region := .mainRAM, frame := p.val }

/-- Both views of a page map main RAM at its own frame (R59). -/
def ModeMap.pageOnMainRam (m : ModeMap) (p : Fin 8) : Bool :=
  m.read.get p = mainRamAt p && m.write.get p = mainRamAt p

/-- Both views of every page of a band map main RAM at its own frame: R59's definition of a routed band. -/
def ModeMap.bandOnMainRam (m : ModeMap) (b : Fin 3) : Bool := (bandPages b).all m.pageOnMainRam

/-- The row of the page maps, with the routing R59 derives from them. -/
def ModeMap.ofMaps (read write : Vector Handle 8) : ModeMap :=
  let m : ModeMap := { read := read, write := write, routed := #v[false, false, false] }
  { m with routed := #v[m.bandOnMainRam 0, m.bandOnMainRam 1, m.bandOnMainRam 2] }

/-- The row of a mode value outside the Mode type; no well-formed state has such a mode (log 12). It routes no band. -/
def ModeMap.absent : ModeMap :=
  let all : Vector Handle 8 :=
    #v[mainRamAt 0, mainRamAt 1, mainRamAt 2, mainRamAt 3, mainRamAt 4, mainRamAt 5, mainRamAt 6, mainRamAt 7]
  { read := all, write := all, routed := #v[false, false, false] }

/-- The row of mode value `m` (R32). -/
def Config.modeMap (c : Config) (m : Nat) : ModeMap := c.modes.getD m ModeMap.absent

/-- A handle shows a frame its region has (R50, R52). -/
def Config.hasFrame (c : Config) (h : Handle) : Bool :=
  c.regions.any fun r => r.region = h.region && h.frame < r.frames

/-- One row of the mode table is legal: each read handle shows a frame of a region other than a Sink (R50), each write
handle a frame of a region, and the routing is R59's. -/
def Config.wfMode (c : Config) (m : ModeMap) : Bool :=
  m.read.toList.all (fun h => c.hasFrame h && h.region.kind ≠ .sink) && m.write.toList.all c.hasFrame &&
    m.routed = #v[m.bandOnMainRam 0, m.bandOnMainRam 1, m.bandOnMainRam 2]

/-- A legal configuration (R9, R50, R59, D20): no region listed twice, main RAM of at least 0x10000 bytes, a Sink, at least
one mode, legal rows, the keyboard fields within the DCB, and a queue with room for a key. -/
def Config.wf (c : Config) : Bool :=
  decide (c.regions.map RegionInfo.region).Nodup &&
    c.regions.any (fun r => r.region = .mainRAM && 8 ≤ r.frames) && c.regions.any (fun r => r.region = .sink) &&
    0 < c.modes.length && c.modes.all c.wfMode && 1 ≤ c.kbdPtrOff && c.kbdPtrOff + 1 < 21 && 1 ≤ c.kbdCntOff &&
    c.kbdCntOff + 1 < 21 && 1 ≤ c.kbdQueueCap

end Sys2Proof
end

