-- ==== Sys2Proof/Machine/Reference.lean ====
section
/-! DEFINITION. The reference configuration: the page maps of 20_memory.md R57, the keyboard offsets of D19 and a queue
capacity. The spec supplies R57 and D19 from general knowledge and asks that a model keep them as configuration values
(93_implementation_defined.md, section 2; log 10). -/

namespace Sys2Proof

/-- R57's read handle of page `p` when `m[1:0] = lo` and `m[3:2] = hi`. -/
def referenceRead (lo hi : Nat) (p : Fin 8) : Handle :=
  if p.val = 0 then
    match lo with
    | 0 => ⟨.writerROM, 0⟩
    | 1 => ⟨.mainRAM, 0⟩
    | 2 => ⟨.expRAM, 0⟩
    | _ => ⟨.osROM, 0⟩
  else if p.val < 4 then
    match lo with
    | 0 => ⟨.writerROM, p.val⟩
    | 2 => ⟨.expRAM, p.val⟩
    | _ => mainRamAt p
  else
    match hi with
    | 0 => mainRamAt p
    | 1 => ⟨.expRAM, p.val⟩
    | 2 => ⟨.expROM, p.val - 4⟩
    | _ => ⟨.cartROM, p.val - 4⟩

/-- R57's write handle: the read handle where it is RAM, `(Sink, 0)` where it is ROM. -/
def referenceWrite (h : Handle) : Handle := if h.region.kind = .ram then h else ⟨.sink, 0⟩

/-- The row of mode value `m`. -/
def referenceMode (m : Nat) : ModeMap :=
  let r := referenceRead (m % 4) (m / 4)
  ModeMap.ofMaps #v[r 0, r 1, r 2, r 3, r 4, r 5, r 6, r 7]
    #v[referenceWrite (r 0), referenceWrite (r 1), referenceWrite (r 2), referenceWrite (r 3),
       referenceWrite (r 4), referenceWrite (r 5), referenceWrite (r 6), referenceWrite (r 7)]

/-- R57's regions and sizes in 8 KiB frames; the Sink's one frame is the target `(Sink, 0)`. -/
def referenceRegions : List RegionInfo :=
  [⟨.mainRAM, 8⟩, ⟨.expRAM, 8⟩, ⟨.writerROM, 4⟩, ⟨.osROM, 1⟩, ⟨.expROM, 4⟩, ⟨.cartROM, 4⟩, ⟨.sink, 1⟩]

/-- The reference configuration; the capacity 8 is a DESIGN CHOICE (D20 leaves it open, log 10). -/
def Config.reference : Config :=
  { regions := referenceRegions
    modes := (List.range 16).map referenceMode
    kbdPtrOff := 1
    kbdCntOff := 3
    kbdQueueCap := 8 }

end Sys2Proof
end

