-- ==== Sys2Proof/Machine/State.lean ====
section
/-! DEFINITION. The state of the block and of the machine it stands in (10_state.md), as plain data, and its reset. -/

namespace Sys2Proof.Machine

/-- A media request handed out (30_encoding.md R82). -/
structure MediaRequest where
  kind  : MediaKind
  index : Fin 4
  cmd   : Byte
  dcb   : Addr
  deriving DecidableEq, Repr

/-- A diagnostic event (60_exceptions.md R205). -/
inductive LogEvent where
  | unimplementedHeaderCommand (v : Byte)
  | unknownDevice (id : BitVec 12)
  deriving DecidableEq, Repr

/-- What is presented to the block between two steps: a CPU access, a host operation (R208, R209), or a change of the
mapping mode by the memory subsystem (R210, `MODE m` of R13). -/
inductive Input where
  | cpu (w : TransactionWord)
  | host (w : HostWord)
  | mode (m : Nat)
  deriving DecidableEq, Repr

/-- The state. -/
@[ext]
structure State where
  /-- Bus base address (R22). -/
  base : Addr
  /-- Presence table (R23). -/
  presence : Presence
  /-- Active device count (R24). -/
  count : Byte
  /-- Keyboard status (R25). -/
  kbdStatus : Byte
  /-- Cached disk index (R26). -/
  lastDisk : Byte
  /-- Keyboard FIFO, oldest key first (R27). -/
  kbdQueue : List Byte
  /-- The mapping-mode input (R31), a row number of `cfg.modes`. -/
  mode : Nat
  /-- The bytes of the physical regions (R21, R50). -/
  mem : Memory
  /-- The configuration (R9), which no step changes (log 2). -/
  cfg : Config
  /-- What is still to be served, oldest first (R73; log 1). -/
  inputs : List Input
  /-- The address of the CPU access being served (R80, R112; log 7). -/
  addr : Addr
  /-- The byte the latest step returned to the CPU, if it was a read (R3, R208; log 7). -/
  readData : Option Byte
  /-- The media requests handed out, oldest first (R82; log 8). -/
  mediaRequests : List MediaRequest
  /-- The diagnostic events, oldest first (R205; log 8). -/
  events : List LogEvent
  deriving DecidableEq, Repr

/-- The block raises no exception and has no fault (R200, R202): no constructor, so no step can fault. -/
inductive Fault where
  deriving DecidableEq, Repr

/-- Why a step gives an input no meaning. -/
inductive Refusal where
  /-- Raised by exec's arm of an operation that has no meaning yet; safe. -/
  | notModelled (mnemonic : String)
  /-- Raised by the fetch on a reserved host word or a reserved decoded command word (R93: "refuse"); safe. -/
  | reservedWord (r : DecodeReject)
  /-- Raised by the fetch on a mode input that is no value of the Mode type (R9, R31; log 12); safe. -/
  | noSuchMode (m : Nat)
  deriving DecidableEq, Repr

/-- Power-on followed by RESET (R230 to R233, R28). The values the spec does not give: mode 0b0001 (log 4), memory with
nothing listed (log 5), the reference configuration (log 10), nothing pending (log 1), idle ports and empty histories
(logs 7, 8). -/
def State.reset : State :=
  { base := 0xFEC0#16
    presence := Presence.window 0xFEC0#16
    count := 15#8
    kbdStatus := 0x00#8
    lastDisk := 0#8
    kbdQueue := []
    mode := 1
    mem := []
    cfg := Config.reference
    inputs := []
    addr := 0x0000#16
    readData := none
    mediaRequests := []
    events := [] }

end Sys2Proof.Machine
end

