-- ==== Sys2Proof/Machine/Ops.lean ====
section
/-! DEFINITION. The shared operations over memory and the block's registers. There is no exception entry and no return
from one among them: the block raises none (60_exceptions.md R200, R206). -/

namespace Sys2Proof.Machine

/-- The page maps the mapping mode selects (10_state.md R32). -/
def State.maps (s : State) : ModeMap := s.cfg.modeMap s.mode

/-- The physical byte that address `a` reads (20_memory.md R53). -/
def State.readPhys (s : State) (a : Addr) : Nat := (s.maps.read.get (page a)).phys a

/-- The handle that address `a` writes through (R54). -/
def State.writeHandle (s : State) (a : Addr) : Handle := s.maps.write.get (page a)

/-- The physical byte that address `a` writes (R54). -/
def State.writePhys (s : State) (a : Addr) : Nat := (s.writeHandle a).phys a

/-- `MemRead(a, 1)` (R53). -/
def State.memRead (s : State) (a : Addr) : Byte := s.mem.get (s.readPhys a)

/-- `MemWrite(a, 1, v)` (R54): a write to ROM changes nothing. -/
def State.memWrite (s : State) (a : Addr) (v : Byte) : State :=
  if (s.writeHandle a).region.kind = .rom then s
  else { s with mem := s.mem.set (s.writePhys a) v }

/-- `{hi, lo}` of two bytes (R10). -/
def pair (hi lo : Byte) : Addr := hi ++ lo

/-- A little-endian 16-bit value at `a`: two byte reads, modulo 2^16 (R65, R67). -/
def State.memRead16 (s : State) (a : Addr) : Addr := pair (s.memRead (a + 1#16)) (s.memRead a)

/-- `off(a) = (a - S.base) mod 2^16` (R60). -/
def State.off (s : State) (a : Addr) : Nat := (a - s.base).toNat

/-- `busRouted(mode, band(a))` (R9, R59, R61). -/
def State.routed (s : State) (a : Addr) : Bool := s.maps.routed.get (band a)

/-- The liveness bound `4 + 21 * S.count` (R61, R98). -/
def State.liveBound (s : State) : Nat := 4 + 21 * s.count.toNat

/-- `is_live(a)` (R61). -/
def State.isLive (s : State) (a : Addr) : Bool :=
  if s.presence.flag a = false then false
  else if s.routed a = false then false
  else if s.liveBound ≤ s.off a then false
  else true

/-- `return v` of a read transaction (R11): the read data, and nothing else changes (R69). -/
def State.giveData (s : State) (v : Byte) : State := { s with readData := some v }

/-- `S.kbdStatus <- v`. -/
def State.setKbdStatus (s : State) (v : Byte) : State := { s with kbdStatus := v }

/-- `S.count <- v`. -/
def State.setCount (s : State) (v : Byte) : State := { s with count := v }

/-- `S.lastDisk <- v`. -/
def State.setLastDisk (s : State) (v : Byte) : State := { s with lastDisk := v }

/-- `S.kbdQueue <- q` (R27). -/
def State.setQueue (s : State) (q : List Byte) : State := { s with kbdQueue := q }

/-- `log(event)` (R11, R205). -/
def State.logEvent (s : State) (e : LogEvent) : State := { s with events := s.events ++ [e] }

/-- `relocate(t)` (41_header.md R131): old flags cleared, new ones set, base moved, all 15 slots armed. -/
def State.relocate (s : State) (t : Addr) : State :=
  { s with
    presence := (s.presence.clearWindow s.base).setWindow t
    base := t
    count := 15#8 }

/-- Store first (R121), then the echo of slot 0, whose command byte is `S.base +16 4`, whatever `v` is (R153, R155). -/
def State.storeCommand (s : State) (d : Addr) (v : Byte) : State :=
  if d = s.base + 4#16 then (s.memWrite d v).memWrite d (ackOf v) else s.memWrite d v

/-- Writes through the write view, in order (R72). -/
def State.memWrites (s : State) : List (Addr × Byte) → State
  | [] => s
  | (a, v) :: ws => (s.memWrite a v).memWrites ws

/-- A media request goes out (30_encoding.md R82). -/
def State.requestMedia (s : State) (r : MediaRequest) : State := { s with mediaRequests := s.mediaRequests ++ [r] }

/-- `media(kind, i, V, d)` (43_devices.md R186): the request goes out, and the media subsystem's writes are made; its
status is discarded (R187). -/
def State.media (s : State) (kind : MediaKind) (i : Fin 4) (v : Byte) (d : Addr) : State :=
  (s.requestMedia { kind := kind, index := i, cmd := v, dcb := d }).memWrites
    (Config.mediaWrites kind i v d s.maps s.mem)

/-- `ack(V)` (R177). -/
def State.ack (s : State) (d : Addr) (v : Byte) : State := s.memWrite d (ackOf v)

end Sys2Proof.Machine
end

