-- ==== Sys2Proof/Machine/Operands.lean ====
section
/-! DEFINITION. The operands the block forms for itself: slot and byte of an offset, DCB addresses, device identity and
routing, indices, the relocation target and the keyboard parameters (30_encoding.md R83, R87 to R91, R98). -/

namespace Sys2Proof.Machine

/-- HDR_SIZE and DCB_SIZE of R8. -/
def hdrSize : Nat := 4
def dcbSize : Nat := 21

/-- The slot of a window offset at or past the header (R83). -/
def slotOf (o : Nat) : Nat := (o - hdrSize) / dcbSize

/-- The byte within the DCB of such an offset (R83). -/
def byteOf (o : Nat) : Nat := (o - hdrSize) % dcbSize

/-- `dcb(s) = (S.base + 4 + 21*s) mod 2^16` (R87). -/
def State.dcb (s : State) (slot : Nat) : Addr := s.base + BitVec.ofNat 16 (hdrSize + dcbSize * slot)

/-- The identity of the DCB at `d`: the byte at 9 shifted left 4, or the low nibble of the byte at 16 (R89). -/
def State.idAt (s : State) (d : Addr) : BitVec 12 :=
  s.memRead (d + 9#16) ++ (s.memRead (d + 16#16)).extractLsb' 0 4

/-- The devices an identity can name, with their indices (R90; 42_dispatch.md R158). -/
inductive Device where
  | keyboard
  | printer
  | disk (index : Fin 4)
  | tape (index : Fin 4)
  | repeatDisk
  | unknown
  deriving DecidableEq, Repr

/-- `id - 4` (R90, R98), taken modulo 4 so that it is total (log 15). -/
def diskIndex (id : BitVec 12) : Fin 4 := Fin.ofNat 4 (id - 4#12).toNat

/-- `(id >> 4) + ((id AND 1) << 1)` (R91), taken modulo 4 so that it is total (log 15). -/
def tapeIndex (id : BitVec 12) : Fin 4 := Fin.ofNat 4 ((id >>> 4) + ((id &&& 1#12) <<< 1)).toNat

/-- Device-identity decode (R90). -/
def route (id : BitVec 12) : Device :=
  if id = 0x001#12 then .keyboard
  else if id = 0x002#12 then .printer
  else if id = 0x004#12 ∨ id = 0x005#12 ∨ id = 0x006#12 ∨ id = 0x007#12 then .disk (diskIndex id)
  else if id = 0x008#12 ∨ id = 0x009#12 ∨ id = 0x018#12 ∨ id = 0x019#12 then .tape (tapeIndex id)
  else if id = 0x052#12 then .repeatDisk
  else .unknown

/-- `devclass(id)` (R90). -/
def Device.cls : Device → DevClass
  | .keyboard => .kbd
  | .printer => .prn
  | .disk _ => .dsk
  | .tape _ => .tap
  | .repeatDisk => .rpt
  | .unknown => .unk

/-- `S.lastDisk` as a disk number 0..3 (R26, R183); the invariant R30 keeps it there (log 15). -/
def State.cachedDisk (s : State) : Fin 4 := Fin.ofNat 4 s.lastDisk.toNat

/-- The relocation target, header offsets 1 (low) and 2 (high) (R88). -/
def State.relocTarget (s : State) : Addr := s.memRead16 (s.base + 1#16)

/-- The keyboard buffer pointer of the DCB at `d` (R89, R174). -/
def State.kbdPtr (s : State) (d : Addr) : Addr := s.memRead16 (d + BitVec.ofNat 16 s.cfg.kbdPtrOff)

/-- The keyboard byte count of the DCB at `d` (R89, R174). -/
def State.kbdCnt (s : State) (d : Addr) : Addr := s.memRead16 (d + BitVec.ofNat 16 s.cfg.kbdCntOff)

end Sys2Proof.Machine
end

