-- ==== Sys2Proof/Machine/Dcb.lean ====
section
/-! DEFINITION. DCB accesses that reach no device, and the NAK (42_dispatch.md). -/

namespace Sys2Proof.Machine

/-- DCB_PAR_RD (R150). -/
def execDcbParRd (s : State) : Host.Outcome State Fault Refusal := .next (s.giveData (s.memRead s.addr))

/-- DCB_CMD_RD (R151). -/
def execDcbCmdRd (_dev : DevClass) (s : State) : Host.Outcome State Fault Refusal :=
  .next (s.giveData (s.memRead s.addr))

/-- DCB_PAR_WR (R152): no dispatch. -/
def execDcbParWr (v : Byte) (s : State) : Host.Outcome State Fault Refusal := .next (s.memWrite s.addr v)

/-- DCB_CMD_IGNORE (R156): the store and the slot-0 echo, whatever the device. -/
def execDcbCmdIgnore (_dev : DevClass) (v : Byte) (s : State) : Host.Outcome State Fault Refusal :=
  .next (s.storeCommand s.addr v)

/-- UNK_NAK (R157). -/
def execUnkNak (v : Byte) (s : State) : Host.Outcome State Fault Refusal :=
  let s1 := s.storeCommand s.addr v
  .next ((s1.memWrite s.addr nakByte).logEvent (.unknownDevice (s1.idAt s.addr)))

end Sys2Proof.Machine
end

