-- ==== Sys2Proof/Machine/Devices.lean ====
section
/-! DEFINITION. The printer, disk and tape controllers (43_devices.md R177 to R189). The index comes from the identity at
the time of the write (42_dispatch.md R153). -/

namespace Sys2Proof.Machine

/-- PRN_CMD (R178). -/
def execPrnCmd (v : Byte) (s : State) : Host.Outcome State Fault Refusal :=
  .next ((s.storeCommand s.addr v).ack s.addr v)

/-- DSK_CMD (R180): the index is cached before the media call. -/
def execDskCmd (v : Byte) (s : State) : Host.Outcome State Fault Refusal :=
  let s1 := s.storeCommand s.addr v
  let i := diskIndex (s1.idAt s.addr)
  .next (((s1.setLastDisk (BitVec.ofNat 8 i.val)).media .disk i v s.addr).ack s.addr v)

/-- TAP_CMD (R181). -/
def execTapCmd (v : Byte) (s : State) : Host.Outcome State Fault Refusal :=
  let s1 := s.storeCommand s.addr v
  .next ((s1.media .tape (tapeIndex (s1.idAt s.addr)) v s.addr).ack s.addr v)

/-- DSK_REPEAT (R183): this command, on the cached disk. -/
def execDskRepeat (v : Byte) (s : State) : Host.Outcome State Fault Refusal :=
  let s1 := s.storeCommand s.addr v
  .next ((s1.media .disk s1.cachedDisk v s.addr).ack s.addr v)

end Sys2Proof.Machine
end

