-- ==== Sys2Proof/Machine/Header.lean ====
section
/-! DEFINITION. Accesses to the bus header (41_header.md). Each write stores its byte first (R121). -/

namespace Sys2Proof.Machine

/-- The store and the echo `0x80 OR V` of a header write (R121, R123 to R125, R128). -/
def State.storeEcho (s : State) (v : Byte) : State := (s.memWrite s.addr v).memWrite s.addr (ackOf v)

/-- HDR_RD (R120): the byte in memory, whichever header byte it is. -/
def execHdrRd (_h : HdrClass) (s : State) : Host.Outcome State Fault Refusal := .next (s.giveData (s.memRead s.addr))

/-- HDR_NOP (R122). -/
def execHdrNop (s : State) : Host.Outcome State Fault Refusal := .next (s.memWrite s.addr 0x00#8)

/-- HDR_SYNC_CPU (R123). -/
def execHdrSyncCpu (s : State) : Host.Outcome State Fault Refusal := .next (s.storeEcho 0x01#8)

/-- HDR_SYNC_PCTL (R124). -/
def execHdrSyncPctl (s : State) : Host.Outcome State Fault Refusal := .next (s.storeEcho 0x02#8)

/-- HDR_RELOCATE (R125): store, echo at the old base, read the target, relocate. -/
def execHdrRelocate (s : State) : Host.Outcome State Fault Refusal :=
  let s1 := s.storeEcho 0x03#8
  .next (s1.relocate s1.relocTarget)

/-- HDR_UNIMPL (R126): no echo, one log event. -/
def execHdrUnimpl (v : Byte) (s : State) : Host.Outcome State Fault Refusal :=
  .next ((s.memWrite s.addr v).logEvent (.unimplementedHeaderCommand v))

/-- HDR_HIGH (R127): no dispatch, no log. -/
def execHdrHigh (v : Byte) (s : State) : Host.Outcome State Fault Refusal := .next (s.memWrite s.addr v)

/-- HDR_PARAM_WR (R129). -/
def execHdrParamWr (v : Byte) (s : State) : Host.Outcome State Fault Refusal := .next (s.memWrite s.addr v)

/-- HDR_COUNT_WR (R128): the count is the value written, before the echo, capped at 15. -/
def execHdrCountWr (v : Byte) (s : State) : Host.Outcome State Fault Refusal :=
  .next ((s.storeEcho v).setCount (capCount v))

end Sys2Proof.Machine
end

