-- ==== Sys2Proof/Machine/HostOps.lean ====
section
/-! DEFINITION. The host's operations (60_exceptions.md R209). -/

namespace Sys2Proof.Machine

/-- RESET (70_reset R230): every BusState field; the queue, memory and the mode stay (R231, R232). -/
def execReset (s : State) : Host.Outcome State Fault Refusal :=
  .next { s with
    presence := Presence.window 0xFEC0#16
    base := 0xFEC0#16
    count := 15#8
    kbdStatus := 0x00#8
    lastDisk := 0#8 }

/-- KEY (43_devices.md R176): the low byte of the code is appended, or dropped when the queue is full. -/
def execKey (code : BitVec 16) (s : State) : Host.Outcome State Fault Refusal :=
  if s.kbdQueue.length < s.cfg.kbdQueueCap then .next (s.setQueue (s.kbdQueue ++ [code.extractLsb' 0 8]))
  else .next s

end Sys2Proof.Machine
end

