-- ==== Sys2Proof/Machine/Keyboard.lean ====
section
/-! DEFINITION. The keyboard controller (43_devices.md R170 to R175). -/

namespace Sys2Proof.Machine

/-- KBD_STATUS_RD (R170): the status register, not the memory byte. -/
def execKbdStatusRd (s : State) : Host.Outcome State Fault Refusal := .next (s.giveData s.kbdStatus)

/-- KBD_SYNC (R171). -/
def execKbdSync (v : Byte) (s : State) : Host.Outcome State Fault Refusal :=
  .next (((s.storeCommand s.addr v).setKbdStatus kbdReady).memWrite s.addr kbdReady)

/-- KBD_PROBE (R172). -/
def execKbdProbe (s : State) : Host.Outcome State Fault Refusal :=
  .next (((s.storeCommand s.addr 0x03#8).memWrite s.addr nakByte).setKbdStatus kbdReady)

/-- KBD_UNDEF (R173): nothing beyond the store and the slot-0 echo. -/
def execKbdUndef (v : Byte) (s : State) : Host.Outcome State Fault Refusal := .next (s.storeCommand s.addr v)

/-- The loop of R174 from byte `i` on, with `n` bytes still wanted: the state it leaves, and whether it was complete. -/
def State.kbdFill (s : State) (p : Addr) (i : Nat) : Nat → State × Bool
  | 0 => (s, true)
  | n + 1 =>
    match s.kbdQueue with
    | [] => (s, false)
    | c :: q => ((s.setQueue q).memWrite (p + BitVec.ofNat 16 i) c).kbdFill p (i + 1) n

/-- KBD_READBUF (R174): pointer and count are read once, before the first byte is written. -/
def execKbdReadbuf (s : State) : Host.Outcome State Fault Refusal :=
  let s1 := s.storeCommand s.addr 0x04#8
  let r := s1.kbdFill (s1.kbdPtr s.addr) 0 (s1.kbdCnt s.addr).toNat
  if r.2 then .next ((r.1.setKbdStatus kbdReady).memWrite s.addr 0x00#8)
  else .next (r.1.setKbdStatus kbdShort)

end Sys2Proof.Machine
end

