-- ==== Sys2Proof/Machine/Plain.lean ====
section
/-! DEFINITION. Plain accesses, of addresses that are not live (40_plain_access.md). -/

namespace Sys2Proof.Machine

/-- PLAIN_RD (R110). -/
def execPlainRd (s : State) : Host.Outcome State Fault Refusal := .next (s.giveData (s.memRead s.addr))

/-- PLAIN_WR (R111). -/
def execPlainWr (v : Byte) (s : State) : Host.Outcome State Fault Refusal := .next (s.memWrite s.addr v)

end Sys2Proof.Machine
end

