-- ==== Sys2Proof/Machine/Dispatch.lean ====
section
/-! DEFINITION. One arm for each operation. -/

namespace Sys2Proof.Machine

def exec (i : Instr) (s : State) : Host.Outcome State Fault Refusal :=
  match i with
  | .plainRd => Sys2Proof.Machine.execPlainRd s
  | .plainWr v => Sys2Proof.Machine.execPlainWr v s
  | .hdrRd h => Sys2Proof.Machine.execHdrRd h s
  | .hdrNop => Sys2Proof.Machine.execHdrNop s
  | .hdrSyncCpu => Sys2Proof.Machine.execHdrSyncCpu s
  | .hdrSyncPctl => Sys2Proof.Machine.execHdrSyncPctl s
  | .hdrRelocate => Sys2Proof.Machine.execHdrRelocate s
  | .hdrUnimpl v => Sys2Proof.Machine.execHdrUnimpl v s
  | .hdrHigh v => Sys2Proof.Machine.execHdrHigh v s
  | .hdrParamWr v => Sys2Proof.Machine.execHdrParamWr v s
  | .hdrCountWr v => Sys2Proof.Machine.execHdrCountWr v s
  | .kbdStatusRd => Sys2Proof.Machine.execKbdStatusRd s
  | .dcbCmdRd dev => Sys2Proof.Machine.execDcbCmdRd dev s
  | .dcbParRd => Sys2Proof.Machine.execDcbParRd s
  | .dcbParWr v => Sys2Proof.Machine.execDcbParWr v s
  | .dcbCmdIgnore dev v => Sys2Proof.Machine.execDcbCmdIgnore dev v s
  | .kbdSync v => Sys2Proof.Machine.execKbdSync v s
  | .kbdProbe => Sys2Proof.Machine.execKbdProbe s
  | .kbdReadbuf => Sys2Proof.Machine.execKbdReadbuf s
  | .kbdUndef v => Sys2Proof.Machine.execKbdUndef v s
  | .prnCmd v => Sys2Proof.Machine.execPrnCmd v s
  | .dskCmd v => Sys2Proof.Machine.execDskCmd v s
  | .tapCmd v => Sys2Proof.Machine.execTapCmd v s
  | .dskRepeat v => Sys2Proof.Machine.execDskRepeat v s
  | .unkNak v => Sys2Proof.Machine.execUnkNak v s
  | .reset => Sys2Proof.Machine.execReset s
  | .key code => Sys2Proof.Machine.execKey code s

end Sys2Proof.Machine
end

