-- ==== Sys2Proof/Machine/Fetch.lean ====
section
/-! DEFINITION. Taking the next input and finding its operation (30_encoding.md R83), and placing one for a step to
fetch. -/

namespace Sys2Proof.Machine

/-- REG and DEV of an access to `a` (R83). -/
def State.target (s : State) (a : Addr) : Target :=
  if s.isLive a then
    let o := s.off a
    if o = 0 then .hdr .command
    else if o = 1 ∨ o = 2 then .hdr .target
    else if o = 3 then .hdr .count
    else if byteOf o = 0 then .dcbCmd (route (s.idAt (s.dcb (slotOf o)))).cls
    else .dcbPar
  else .plain

/-- The decoded command word of an access, from the access and the state before any effect (R83). -/
def State.commandWord (s : State) (x : Access) : CommandWord :=
  packCommand x.we (s.target x.addr) (if x.we then x.data else 0x00#8)

/-- What the next input asks for. -/
inductive Fetched where
  /-- Nothing is pending: the block is idle (R217). -/
  | idle
  /-- An operation, and the state in which it runs. -/
  | run (i : Instr) (s : State)
  /-- A mode change, done (R210). -/
  | settled (s : State)
  /-- An input without a meaning (R93). -/
  | rejected (r : Refusal)
  deriving DecidableEq, Repr

/-- The input is taken from the pending ones, and no read data stands on the port yet. -/
def State.accept (s : State) (rest : List Input) : State := { s with inputs := rest, readData := none }

/-- The mode input changes (R210); the block itself never does this. -/
def State.setMode (s : State) (m : Nat) : State := { s with mode := m }

/-- The operation of a word, or the refusal of a reserved one (R93). -/
def State.issue (s : State) (w : OpWord) : Fetched :=
  match decode w with
  | .ok i => .run i s
  | .error r => .rejected (.reservedWord r)

/-- Takes the next input: a CPU access is decoded against the state (R83), a host word by itself (R81), a mode change is
made (R210). -/
def State.fetch (s : State) : Fetched :=
  match s.inputs with
  | [] => .idle
  | .cpu w :: rest =>
    let x := Access.ofWord w
    ({ s.accept rest with addr := x.addr }).issue (.dcw (s.commandWord x))
  | .host w :: rest => (s.accept rest).issue (.hw w)
  | .mode m :: rest =>
    if m < s.cfg.modes.length then .settled ((s.accept rest).setMode m) else .rejected (.noSuchMode m)

/-- Stores a byte where address `a` reads, ROM or not: memory as it stands before a run, not an access. -/
def State.placeByte (s : State) (a : Addr) (v : Byte) : State := { s with mem := s.mem.set (s.readPhys a) v }

/-- An address of slot 0 or the header, or one that is not live, for a REG field (R85). -/
def State.placeAddr (s : State) (reg : BitVec 3) : Addr :=
  if reg = 1#3 then s.base
  else if reg = 2#3 then s.base + 1#16
  else if reg = 3#3 then s.base + 3#16
  else if reg = 4#3 then s.base + 4#16
  else if reg = 5#3 then s.base + 5#16
  else s.base - 1#16

/-- The mode under which `a` is routed: the present one if it routes, else the first that does, if any. -/
def State.placeMode (s : State) (a : Addr) : Nat :=
  if s.routed a then s.mode
  else ((List.range s.cfg.modes.length).find? fun m => (s.cfg.modeMap m).routed.get (band a)).getD s.mode

/-- The identity bytes (offset 9, offset 16) of a device of a class (R90). -/
def placeIdentity (dev : BitVec 4) : Byte × Byte :=
  if dev = 1#4 then (0x00#8, 0x01#8)
  else if dev = 2#4 then (0x00#8, 0x02#8)
  else if dev = 3#4 then (0x00#8, 0x04#8)
  else if dev = 4#4 then (0x00#8, 0x08#8)
  else if dev = 5#4 then (0x05#8, 0x02#8)
  else (0x00#8, 0x00#8)

/-- Makes `a` live: its band routed, its flag set, the count past it (R61). Nothing changes where it is live already. -/
def State.placeLive (s : State) (a : Addr) : State :=
  if s.isLive a then s
  else
    { s with
      mode := s.placeMode a
      presence := s.presence.setFlag a
      count := if s.off a < s.liveBound then s.count else 15#8 }

/-- The state whose next step serves an access that decodes to command word `w` (log 17). -/
def State.placeCommand (s : State) (w : CommandWord) : State :=
  let reg := w.extractLsb' 12 3
  let a := s.placeAddr reg
  let x : Access := { we := w.getLsbD 15, addr := a, data := w.extractLsb' 0 8 }
  let s1 := if reg = 0#3 then s else s.placeLive a
  let s2 :=
    if reg = 4#3 then
      let ids := placeIdentity (w.extractLsb' 8 4)
      (s1.placeByte (a + 9#16) ids.1).placeByte (a + 16#16) ids.2
    else s1
  { s2 with inputs := .cpu x.toWord :: s.inputs }

/-- The state whose next step serves host word `w`. -/
def State.placeHost (s : State) (w : HostWord) : State := { s with inputs := .host w :: s.inputs }

end Sys2Proof.Machine
end

