-- ==== Sys2Proof/Machine/Step.lean ====
section
/-! DEFINITION. One step: one transaction, host operation or mode change, whole (00_scope.md R3; 20_memory.md R68). -/

namespace Sys2Proof.Machine

/-- Serves the next input. With none pending the block is idle and stays as it is (60_exceptions.md R217, log 18). -/
def step (s : State) : Host.Outcome State Fault Refusal :=
  match s.fetch with
  | .idle => .next s
  | .run i s' => exec i s'
  | .settled s' => .next s'
  | .rejected r => .refused r

/-- `s` with the word of an opcode-table row presented next: a decoded command word as a CPU access that decodes to it, a
host word as itself. A program is presented from outside the machine, as pending inputs; this stands for that (logs 1,
17). -/
def State.withFetchWord (s : State) (nbits w : Nat) : State :=
  if nbits ≤ 16 then s.placeCommand (BitVec.ofNat 16 w) else s.placeHost (BitVec.ofNat 18 w)

end Sys2Proof.Machine
end

