-- ==== Sys2Proof/Machine/Assembler.lean ====
section
/-! DEFINITION. The transaction notation and the pseudo-operations of the spec (00_scope.md R13; 30_encoding.md R97), as the
inputs they stand for. No step uses them: they say how a program is presented. -/

namespace Sys2Proof.Machine

/-- `R a`, `W a, v`, `RESET`, `KEY c`, `MODE m` (R13). -/
inductive Line where
  | read (a : Addr)
  | write (a : Addr) (v : Byte)
  | reset
  | key (code : BitVec 16)
  | mode (m : Nat)
  deriving DecidableEq, Repr

/-- The words of R80 and R81. -/
def Line.input : Line → Input
  | .read a => .cpu (Access.toWord { we := false, addr := a, data := 0x00#8 })
  | .write a v => .cpu (Access.toWord { we := true, addr := a, data := v })
  | .reset => .host (0b01#2 ++ 0x0000#16)
  | .key code => .host (0b10#2 ++ code)
  | .mode m => .mode m

/-- The pseudo-operations of R97; a slot is 0..14 (R60). -/
inductive Pseudo where
  | hsync
  | psync
  | reloc (t : Addr)
  | setcnt (n : Byte)
  | dcbid (slot : Fin 15) (id : BitVec 12)
  | cmd (slot : Fin 15) (v : Byte)
  | kread (slot : Fin 15) (p n : Addr)
  deriving DecidableEq, Repr

/-- `d(s) = h +16 4 + 21*s` (R97). -/
def dcbAt (h : Addr) (slot : Fin 15) : Addr := h + BitVec.ofNat 16 (4 + 21 * slot.val)

/-- The expansion of a pseudo-operation where the window is at `h` (R97). -/
def Pseudo.lines (h : Addr) : Pseudo → List Line
  | .hsync => [.write h 0x01#8]
  | .psync => [.write h 0x02#8]
  | .reloc t => [.write (h + 1#16) (t.extractLsb' 0 8), .write (h + 2#16) (t.extractLsb' 8 8), .write h 0x03#8]
  | .setcnt n => [.write (h + 3#16) n]
  | .dcbid slot id =>
    [.write (dcbAt h slot + 9#16) (id.extractLsb' 4 8), .write (dcbAt h slot + 16#16) (0x0#4 ++ id.extractLsb' 0 4)]
  | .cmd slot v => [.write (dcbAt h slot) v]
  | .kread slot p n =>
    [.write (dcbAt h slot + 1#16) (p.extractLsb' 0 8), .write (dcbAt h slot + 2#16) (p.extractLsb' 8 8),
     .write (dcbAt h slot + 3#16) (n.extractLsb' 0 8), .write (dcbAt h slot + 4#16) (n.extractLsb' 8 8),
     .write (dcbAt h slot) 0x04#8]

/-- The inputs of a pseudo-operation. -/
def Pseudo.inputs (h : Addr) (p : Pseudo) : List Input := (p.lines h).map Line.input

end Sys2Proof.Machine
end

