-- ==== Sys2Proof/Safety.lean ====
section
/-! DEFINITION. The terms claims are stated in: the invariant of the machine and what a step leaves unchanged. -/

namespace Sys2Proof.Machine

/-- The presence table flags exactly the window at the base (10_state.md R29). -/
def State.PresenceInSync (s : State) : Prop := ∀ a : Addr, s.presence.flag a = decide (s.off a < windowSize)

/-- What holds between any two steps: R29, R30, the legal values of R28, the mode a value of the Mode type, a legal
configuration (R9), and memory in canonical form. -/
structure State.Inv (s : State) : Prop where
  presence : s.PresenceInSync
  count : s.count.toNat ≤ 15
  lastDisk : s.lastDisk.toNat ≤ 3
  kbdStatus : s.kbdStatus = 0x00#8 ∨ s.kbdStatus = 0x80#8 ∨ s.kbdStatus = 0x8C#8
  queue : s.kbdQueue.length ≤ s.cfg.kbdQueueCap
  mode : s.mode < s.cfg.modes.length
  cfg : s.cfg.wf = true
  mem : s.mem.wf = true

/-- A step serves its input: it ends in a next state. -/
def Completes (o : Host.Outcome State Fault Refusal) : Prop := ∃ t, o = .next t

/-- From `s` to `t`, no byte of any region changes but the one that `a` writes, and that one only if it is not ROM. -/
def State.StoresOnlyAt (s t : State) (a : Addr) : Prop :=
  ∀ n, (n ≠ s.writePhys a ∨ (s.writeHandle a).region.kind = .rom) → t.mem.get n = s.mem.get n

/-- The writes the media subsystem makes when it is called for the DCB command byte on the address port, after command `v`
has been stored there (R180, R181, R183, R186). -/
def State.mediaReply (s : State) (kind : MediaKind) (i : Fin 4) (v : Byte) : List (Addr × Byte) :=
  Config.mediaWrites kind i v s.addr s.maps (s.storeCommand s.addr v).mem

/-- From `s` to `t`, no byte of any region changes but the ones that the addresses in `as` write. -/
def State.StoresOnlyAmong (s t : State) (as : List Addr) : Prop :=
  ∀ n, (∀ a ∈ as, n ≠ s.writePhys a) → t.mem.get n = s.mem.get n

/-- The fill writes of R174: the first `m` queued keys, from `p` on, modulo 2^16. -/
def fillWrites (p : Addr) (q : List Byte) (m : Nat) : List (Addr × Byte) :=
  (q.take m).zipIdx.map fun c => (p + BitVec.ofNat 16 c.2, c.1)

/-- The outputs a step adds to are left out: what remains is what the spec calls state. -/
def State.withoutOutputs (s : State) : State := { s with readData := none, mediaRequests := [], events := [] }

end Sys2Proof.Machine
end

