-- ==== Sys2Proof/Certificates/Slice0/Obligations.lean ====
section
/-! DEFINITION. The statements for the provers. In each, `t` is the state an operation answers, an equation
`t = { s with … }` is its frame over registers and ports, and the clauses about `mem.get` are its frame over every byte of
every region. -/

open Sys2Proof Sys2Proof.Machine

/-! ### Encoding -/

/-- One word for each mnemonic, written out from its Encoding line: plain R110, R111; header R120, R122 to R129; DCB access
R150 to R152, R156, R157; keyboard R170 to R174; printer, disk, tape and repeat R178, R180, R181, R183; host R230, R176. -/
def Obligations.WrittenOutWordsDecode : Prop :=
  (decodeCommand 0x0000#16 = .ok .plainRd ∧ decodeCommand 0x8055#16 = .ok (.plainWr 0x55#8)) ∧
  (decodeCommand 0x3000#16 = .ok (.hdrRd .count) ∧ decodeCommand 0x9000#16 = .ok .hdrNop ∧
    decodeCommand 0x9001#16 = .ok .hdrSyncCpu ∧ decodeCommand 0x9002#16 = .ok .hdrSyncPctl ∧
    decodeCommand 0x9003#16 = .ok .hdrRelocate ∧ decodeCommand 0x907F#16 = .ok (.hdrUnimpl 0x7F#8) ∧
    decodeCommand 0x9080#16 = .ok (.hdrHigh 0x80#8) ∧ decodeCommand 0xB0FF#16 = .ok (.hdrCountWr 0xFF#8) ∧
    decodeCommand 0xA0AB#16 = .ok (.hdrParamWr 0xAB#8)) ∧
  (decodeCommand 0x5000#16 = .ok .dcbParRd ∧ decodeCommand 0x4600#16 = .ok (.dcbCmdRd .unk) ∧
    decodeCommand 0xD070#16 = .ok (.dcbParWr 0x70#8) ∧ decodeCommand 0xC281#16 = .ok (.dcbCmdIgnore .prn 0x81#8) ∧
    decodeCommand 0xC601#16 = .ok (.unkNak 0x01#8)) ∧
  (decodeCommand 0x4100#16 = .ok .kbdStatusRd ∧ decodeCommand 0xC101#16 = .ok (.kbdSync 0x01#8) ∧
    decodeCommand 0xC103#16 = .ok .kbdProbe ∧ decodeCommand 0xC105#16 = .ok (.kbdUndef 0x05#8) ∧
    decodeCommand 0xC104#16 = .ok .kbdReadbuf) ∧
  (decodeCommand 0xC205#16 = .ok (.prnCmd 0x05#8) ∧ decodeCommand 0xC302#16 = .ok (.dskCmd 0x02#8) ∧
    decodeCommand 0xC410#16 = .ok (.tapCmd 0x10#8) ∧ decodeCommand 0xC502#16 = .ok (.dskRepeat 0x02#8)) ∧
  (decodeHost 0x10000#18 = .ok .reset ∧ decodeHost 0x20141#18 = .ok (.key 0x0141#16))

/-- Decoding the word of a well-formed operation gives the operation, with every operand at every value R92 admits. -/
def Obligations.DecodeOfEncodeIsTheOperation : Prop :=
  ∀ i : Instr, i.wf = true → decode (encode i) = .ok i

/-- A decoded command word has one meaning: what decodes is well-formed and encodes to the same word. -/
def Obligations.EncodeOfDecodeIsTheWord : Prop :=
  ∀ (w : CommandWord) (i : Instr), decodeCommand w = .ok i → i.wf = true ∧ encode i = .dcw w

/-- R92: a command word that decodes matches exactly one row of the opcode table, a row of its mnemonic. -/
def Obligations.EachCommandWordMatchesItsOneRow : Prop :=
  ∀ (w : CommandWord) (i : Instr), decodeCommand w = .ok i →
    ((opcodeRows.filter fun r => r.matches w).map fun r => r.name) = [i.mnemonic]

/-- R93: the command words refused are exactly the reserved ones: REG 6 or 7, DEV not 0 without REG 4, REG 4 with DEV 0 or
7..15, a read with V not 0. -/
def Obligations.ReservedCommandWordsAreRefused : Prop :=
  ∀ w : CommandWord,
    (∃ r, decodeCommand w = .error r) ↔
      w.extractLsb' 12 3 = 6#3 ∨ w.extractLsb' 12 3 = 7#3 ∨
      (w.extractLsb' 8 4 ≠ 0#4 ∧ w.extractLsb' 12 3 ≠ 4#3) ∨
      (w.extractLsb' 12 3 = 4#3 ∧ (w.extractLsb' 8 4 = 0#4 ∨ 7 ≤ (w.extractLsb' 8 4).toNat)) ∨
      (w.getLsbD 15 = false ∧ w.extractLsb' 0 8 ≠ 0x00#8)

/-- R83, R84, R85, R86: whatever the state and the access, the decoder produces the word {WE, REG, DEV, V}, with REG and DEV
those of the target of the address and V the byte of a write and 0 for a read, and (R92) the word names an operation. -/
def Obligations.EveryAccessNamesAnOperation : Prop :=
  ∀ (s : State) (x : Access),
    (∃ i, decodeCommand (s.commandWord x) = .ok i ∧ i.wf = true) ∧
    (s.commandWord x).getLsbD 15 = x.we ∧
    (s.commandWord x).extractLsb' 0 8 = (if x.we = true then x.data else 0x00#8) ∧
    ((s.commandWord x).extractLsb' 12 3 = 0#3 ↔ s.target x.addr = .plain) ∧
    ((s.commandWord x).extractLsb' 12 3 = 1#3 ↔ s.target x.addr = .hdr .command) ∧
    ((s.commandWord x).extractLsb' 12 3 = 2#3 ↔ s.target x.addr = .hdr .target) ∧
    ((s.commandWord x).extractLsb' 12 3 = 3#3 ↔ s.target x.addr = .hdr .count) ∧
    ((s.commandWord x).extractLsb' 12 3 = 4#3 ↔ ∃ dev, s.target x.addr = .dcbCmd dev) ∧
    ((s.commandWord x).extractLsb' 12 3 = 5#3 ↔ s.target x.addr = .dcbPar) ∧
    ((s.commandWord x).extractLsb' 8 4 = 0#4 ↔ ∀ dev, s.target x.addr ≠ .dcbCmd dev) ∧
    ((s.commandWord x).extractLsb' 8 4 = 1#4 ↔ s.target x.addr = .dcbCmd .kbd) ∧
    ((s.commandWord x).extractLsb' 8 4 = 2#4 ↔ s.target x.addr = .dcbCmd .prn) ∧
    ((s.commandWord x).extractLsb' 8 4 = 3#4 ↔ s.target x.addr = .dcbCmd .dsk) ∧
    ((s.commandWord x).extractLsb' 8 4 = 4#4 ↔ s.target x.addr = .dcbCmd .tap) ∧
    ((s.commandWord x).extractLsb' 8 4 = 5#4 ↔ s.target x.addr = .dcbCmd .rpt) ∧
    ((s.commandWord x).extractLsb' 8 4 = 6#4 ↔ s.target x.addr = .dcbCmd .unk)

/-- R80, R93: a transaction word carries its access; the D field of a read is ignored. -/
def Obligations.TransactionWordCarriesTheAccess : Prop :=
  (∀ x : Access, Access.ofWord x.toWord = { x with data := if x.we then x.data else 0x00#8 }) ∧
  (∀ w : TransactionWord,
    (Access.ofWord w).we = w.getLsbD 24 ∧ (Access.ofWord w).addr = w.extractLsb' 8 16 ∧
    (Access.ofWord w).data = if w.getLsbD 24 then w.extractLsb' 0 8 else 0x00#8)

/-- R81, R93: OP 0b01 is RESET whatever CODE is, 0b10 is KEY with the code, 0b00 and 0b11 are refused. -/
def Obligations.HostWordsNameTheHostOperations : Prop :=
  ∀ code : BitVec 16,
    decodeHost (0b01#2 ++ code) = .ok .reset ∧ decodeHost (0b10#2 ++ code) = .ok (.key code) ∧
    decodeHost (0b00#2 ++ code) = .error .reservedHostOp ∧ decodeHost (0b11#2 ++ code) = .error .reservedHostOp

/-! ### Fetch and step -/

/-- A step decodes the next CPU access against the state and is exec of the operation its command word names, with the
access taken off the pending inputs, its address on the port and no read data yet; a host word likewise, by itself. -/
def Obligations.StepRunsTheDecodedOperation : Prop :=
  (∀ (s : State) (w : TransactionWord) (rest : List Input) (i : Instr),
    s.inputs = .cpu w :: rest → decodeCommand (s.commandWord (Access.ofWord w)) = .ok i →
    step s = exec i { s with inputs := rest, readData := none, addr := (Access.ofWord w).addr }) ∧
  (∀ (s : State) (w : HostWord) (rest : List Input) (i : Instr),
    s.inputs = .host w :: rest → decodeHost w = .ok i →
    step s = exec i { s with inputs := rest, readData := none })

/-- R83, R92, R64: the operation map at the step. `ran i` says that the step is exec of `i`, with the access taken off and
its address on the port: a read and a write of each target run the operation of their row, for every value written. -/
def Obligations.EachAccessRunsTheRowOfItsTarget : Prop :=
  ∀ (s : State) (x : Access) (rest : List Input), s.inputs = .cpu x.toWord :: rest →
    let ran : Instr → Prop := fun i => step s = exec i { s with inputs := rest, readData := none, addr := x.addr }
    (x.we = false →
      (s.target x.addr = .plain → ran .plainRd) ∧
      (∀ h, s.target x.addr = .hdr h → ran (.hdrRd h)) ∧
      (s.target x.addr = .dcbCmd .kbd → ran .kbdStatusRd) ∧
      (∀ dev, dev ≠ .kbd → s.target x.addr = .dcbCmd dev → ran (.dcbCmdRd dev)) ∧
      (s.target x.addr = .dcbPar → ran .dcbParRd)) ∧
    (x.we = true →
      (s.target x.addr = .plain → ran (.plainWr x.data)) ∧
      (s.target x.addr = .hdr .command →
        (x.data = 0x00#8 → ran .hdrNop) ∧ (x.data = 0x01#8 → ran .hdrSyncCpu) ∧
        (x.data = 0x02#8 → ran .hdrSyncPctl) ∧ (x.data = 0x03#8 → ran .hdrRelocate) ∧
        (0x04 ≤ x.data.toNat → x.data.toNat ≤ 0x7F → ran (.hdrUnimpl x.data)) ∧
        (0x80 ≤ x.data.toNat → ran (.hdrHigh x.data))) ∧
      (s.target x.addr = .hdr .target → ran (.hdrParamWr x.data)) ∧
      (s.target x.addr = .hdr .count → ran (.hdrCountWr x.data)) ∧
      (s.target x.addr = .dcbPar → ran (.dcbParWr x.data)) ∧
      (∀ dev, s.target x.addr = .dcbCmd dev → (x.data = 0x00#8 ∨ 0x80 ≤ x.data.toNat) → ran (.dcbCmdIgnore dev x.data)) ∧
      (s.target x.addr = .dcbCmd .kbd →
        ((x.data = 0x01#8 ∨ x.data = 0x02#8) → ran (.kbdSync x.data)) ∧ (x.data = 0x03#8 → ran .kbdProbe) ∧
        (x.data = 0x04#8 → ran .kbdReadbuf) ∧
        (0x05 ≤ x.data.toNat → x.data.toNat ≤ 0x7F → ran (.kbdUndef x.data))) ∧
      (0x01 ≤ x.data.toNat → x.data.toNat ≤ 0x7F →
        (s.target x.addr = .dcbCmd .prn → ran (.prnCmd x.data)) ∧
        (s.target x.addr = .dcbCmd .dsk → ran (.dskCmd x.data)) ∧
        (s.target x.addr = .dcbCmd .tap → ran (.tapCmd x.data)) ∧
        (s.target x.addr = .dcbCmd .rpt → ran (.dskRepeat x.data)) ∧
        (s.target x.addr = .dcbCmd .unk → ran (.unkNak x.data))))

/-- R210, R31: a mode input sets the mode and nothing of the block. R217: with nothing pending the block is idle. -/
def Obligations.ModeInputsAndIdleSteps : Prop :=
  (∀ (s : State) (m : Nat) (rest : List Input), s.inputs = .mode m :: rest → m < s.cfg.modes.length →
    step s = .next { s with mode := m, inputs := rest, readData := none }) ∧
  (∀ s : State, s.inputs = [] → step s = .next s)

/-- R200: every CPU transaction completes, a read returns a byte, and no step of the machine faults. -/
def Obligations.EveryTransactionCompletes : Prop :=
  (∀ (s : State) (w : TransactionWord) (rest : List Input), s.inputs = .cpu w :: rest →
    ∃ t, step s = .next t ∧ t.inputs = rest ∧ ((Access.ofWord w).we = false → ∃ v, t.readData = some v)) ∧
  (∀ (s : State) (f : Fault), step s ≠ .fault f)

/-- The steps that refuse: exactly those on a reserved host word (R93) and on a mode input outside the Mode type (the
model's choice, log 12). -/
def Obligations.OnlyReservedInputsAreRefused : Prop :=
  ∀ s : State, (∃ r, step s = .refused r) ↔
    (∃ (w : HostWord) (rest : List Input), s.inputs = .host w :: rest ∧
      (w.extractLsb' 16 2 = 0b00#2 ∨ w.extractLsb' 16 2 = 0b11#2)) ∨
    (∃ (m : Nat) (rest : List Input), s.inputs = .mode m :: rest ∧ s.cfg.modes.length ≤ m)

/-- R73, R68: a step serves exactly the oldest input, whole; what is pending after it is the rest, in the same order. -/
def Obligations.InputsAreServedOneAtATimeInOrder : Prop :=
  ∀ s t : State, step s = .next t →
    (s.inputs = [] ∧ t = s) ∨ (∃ x rest, s.inputs = x :: rest ∧ t.inputs = rest)

/-- R83, R60, R87: under the invariant, the target of each window address by header offset, and by slot and byte. -/
def Obligations.TargetsFollowTheWindowGeometry : Prop :=
  ∀ s : State, s.Inv →
    (∀ a, s.routed a = true → a = s.base → s.target a = .hdr .command) ∧
    (∀ a, s.routed a = true → (a = s.base + 1#16 ∨ a = s.base + 2#16) → s.target a = .hdr .target) ∧
    (∀ a, s.routed a = true → a = s.base + 3#16 → s.target a = .hdr .count) ∧
    (∀ (a : Addr) (slot : Nat), s.routed a = true → slot < s.count.toNat → a = s.base + BitVec.ofNat 16 (4 + 21 * slot) →
      s.target a = .dcbCmd (route (s.idAt a)).cls) ∧
    (∀ (a : Addr) (slot k : Nat), s.routed a = true → slot < s.count.toNat → 1 ≤ k → k ≤ 20 →
      a = s.base + BitVec.ofNat 16 (4 + 21 * slot) + BitVec.ofNat 16 k → s.target a = .dcbPar) ∧
    (∀ a, s.routed a = false ∨ 4 + 21 * s.count.toNat ≤ (a - s.base).toNat → s.target a = .plain)

/-- R61 with R29 and R30: under the invariant an address is live exactly when its band is routed and it lies in the header
or in a slot below the count. -/
def Obligations.LivenessUnderTheInvariant : Prop :=
  ∀ (s : State) (a : Addr), s.Inv →
    (s.isLive a = true ↔ s.routed a = true ∧ (a - s.base).toNat < 4 + 21 * s.count.toNat)

/-- R90, R91, R158: the device and index of every identity, and Unknown for every other one. -/
def Obligations.IdentityRoutesAsDocumented : Prop :=
  ∀ id : BitVec 12,
    (route id = .keyboard ↔ id.toNat = 0x01) ∧ (route id = .printer ↔ id.toNat = 0x02) ∧
    (∀ k : Fin 4, route id = .disk k ↔ id.toNat = 4 + k.val) ∧
    (∀ k : Fin 4, route id = .tape k ↔
      id.toNat ∈ [0x08, 0x09, 0x18, 0x19] ∧ id.toNat / 16 + 2 * (id.toNat % 2) = k.val) ∧
    (route id = .repeatDisk ↔ id.toNat = 0x52) ∧
    (route id = .unknown ↔
      id.toNat ∉ [0x01, 0x02, 0x04, 0x05, 0x06, 0x07, 0x08, 0x09, 0x18, 0x19, 0x52])

/-- R89: the identity of a DCB is the byte at 9 shifted left 4, or the low nibble of the byte at 16. -/
def Obligations.IdentityFormula : Prop :=
  ∀ (s : State) (d : Addr),
    (s.idAt d).toNat = (s.memRead (d + 9#16)).toNat <<< 4 ||| ((s.memRead (d + 16#16)).toNat &&& 0x0F)

/-! ### Memory and page maps -/

/-- R54: a write to a RAM or Sink byte changes that byte and no other, of any region; a write to ROM changes nothing; and,
in a legal configuration, a write through a ROM or Sink handle changes no byte that any read view shows. -/
def Obligations.MemWriteStoresOneByte : Prop :=
  ∀ (s : State) (a : Addr) (v : Byte), s.mem.wf = true →
    s.StoresOnlyAt (s.memWrite a v) a ∧
    ((s.writeHandle a).region.kind = .rom → s.memWrite a v = s) ∧
    ((s.writeHandle a).region.kind ≠ .rom → (s.memWrite a v).mem.get (s.writePhys a) = v) ∧
    (s.Inv → (s.writeHandle a).region.kind ≠ .ram →
      (∀ b : Addr, (s.memWrite a v).memRead b = s.memRead b) ∧
      ∀ (m : Nat) (b : Addr), m < s.cfg.modes.length →
        (s.memWrite a v).mem.get (((s.cfg.modeMap m).read.get (page b)).phys b) =
          s.mem.get (((s.cfg.modeMap m).read.get (page b)).phys b))

/-- On a routed band a byte written reads back, and a write shows at no other routed address (R53, R54, R59). -/
def Obligations.RoutedWritesReadBack : Prop :=
  ∀ (s : State) (a b : Addr) (v : Byte), s.Inv → s.routed a = true →
    (s.memWrite a v).memRead a = v ∧
    (s.routed b = true → b ≠ a → (s.memWrite a v).memRead b = s.memRead b)

/-- R52: physical bytes are told apart by region, frame and place in the page (the numbering is the model's, log 9). -/
def Obligations.HandlesSelectDistinctBytes : Prop :=
  ∀ (h h' : Handle) (a a' : Addr),
    h.phys a = h'.phys a' ↔ h.region = h'.region ∧ h.frame = h'.frame ∧ a.toNat % 0x2000 = a'.toNat % 0x2000

/-- R50, R52: under the invariant every address reads and writes a byte that its region has, and none reads a Sink. -/
def Obligations.EveryViewShowsAnExistingByte : Prop :=
  ∀ (s : State) (a : Addr), s.Inv →
    (∃ r ∈ s.cfg.regions, r.region = (s.maps.read.get (page a)).region ∧
      (s.maps.read.get (page a)).offset a < r.frames * 0x2000) ∧
    (∃ r ∈ s.cfg.regions, r.region = (s.writeHandle a).region ∧ (s.writeHandle a).offset a < r.frames * 0x2000) ∧
    (s.maps.read.get (page a)).region.kind ≠ .sink

/-- R59: under the invariant a band is routed exactly when both views of every page of it map main RAM at its own frame. -/
def Obligations.RoutedBandsAreMainRam : Prop :=
  ∀ (s : State) (a : Addr), s.Inv →
    (s.routed a = true ↔ ∀ p ∈ bandPages (band a),
      (s.maps.read.get p).region = .mainRAM ∧ (s.maps.read.get p).frame = p.val ∧
      (s.maps.write.get p).region = .mainRAM ∧ (s.maps.write.get p).frame = p.val)

/-- The three band rules of R59 for the reference page maps of R57 (the spec's, from general knowledge; log 10). -/
def Obligations.ReferenceBandRules : Prop :=
  ∀ m : Nat, m < 16 →
    ((Config.reference.modeMap m).routed.get 0 = true ↔ m % 4 = 1) ∧
    ((Config.reference.modeMap m).routed.get 1 = true ↔ m % 4 = 1 ∨ m % 4 = 3) ∧
    ((Config.reference.modeMap m).routed.get 2 = true ↔ m / 4 = 0)

/-- R50, R54, R71: no step changes a byte of a ROM region, whatever the block, the CPU or the media subsystem does. -/
def Obligations.NoStepChangesRom : Prop :=
  ∀ (s t : State) (h : Handle) (a : Addr), step s = .next t → h.region.kind = .rom →
    t.mem.get (h.phys a) = s.mem.get (h.phys a)

/-! ### The invariant -/

/-- Every step keeps the invariant: presence in sync with the base (R29), count and cached disk in range (R30), the
keyboard status one of its three values (R25), the queue within its capacity (R27), a mode of the Mode type, a legal
configuration, and memory in canonical form. -/
def Obligations.StepKeepsTheInvariant : Prop :=
  ∀ s t : State, s.Inv → step s = .next t → t.Inv

/-- The invariant holds at State.reset, and RESET establishes it from any state whose environment (queue, mode,
configuration, memory) is legal, whatever the block's registers held. -/
def Obligations.ResetEstablishesTheInvariant : Prop :=
  State.reset.Inv ∧
  ∀ s : State, s.kbdQueue.length ≤ s.cfg.kbdQueueCap → s.mode < s.cfg.modes.length → s.cfg.wf = true →
    s.mem.wf = true → ∃ t, exec .reset s = .next t ∧ t.Inv

/-- R22 to R27, R31: which operations write each register. Only relocation and RESET move the base or the presence table;
only they and the count write change the count; only keyboard commands and RESET the keyboard status; only disk commands
and RESET the cached disk; only KEY and the keyboard read the queue; none the mode or the configuration. -/
def Obligations.OnlyTheNamedOperationsWriteEachRegister : Prop :=
  ∀ (i : Instr) (s t : State), exec i s = .next t →
    (t.base ≠ s.base → i = .hdrRelocate ∨ i = .reset) ∧
    (t.presence ≠ s.presence → i = .hdrRelocate ∨ i = .reset) ∧
    (t.count ≠ s.count → i = .hdrRelocate ∨ i = .reset ∨ ∃ v, i = .hdrCountWr v) ∧
    (t.kbdStatus ≠ s.kbdStatus → i = .reset ∨ i = .kbdProbe ∨ i = .kbdReadbuf ∨ ∃ v, i = .kbdSync v) ∧
    (t.lastDisk ≠ s.lastDisk → i = .reset ∨ ∃ v, i = .dskCmd v) ∧
    (t.kbdQueue ≠ s.kbdQueue → i = .kbdReadbuf ∨ ∃ c, i = .key c) ∧
    t.mode = s.mode ∧ t.cfg = s.cfg ∧ t.inputs = s.inputs ∧ t.addr = s.addr

/-- R205, R82, R208: no rule reads the log, the media requests or the read data: two states that differ only there step
to states that differ only there. -/
def Obligations.OutputsAreNeverReadBack : Prop :=
  ∀ (s s' t : State), s.withoutOutputs = s'.withoutOutputs → step s = .next t →
    ∃ t', step s' = .next t' ∧ t.withoutOutputs = t'.withoutOutputs

/-! ### Reset, host operations -/

/-- R230, R233: what State.reset holds of the values the spec gives. -/
def Obligations.ResetValues : Prop :=
  State.reset.base = 0xFEC0#16 ∧ State.reset.count = 15#8 ∧ State.reset.kbdStatus = 0x00#8 ∧
  State.reset.lastDisk = 0#8 ∧ State.reset.kbdQueue = [] ∧
  ∀ a : Addr, State.reset.presence.flag a = decide (0xFEC0 ≤ a.toNat ∧ a.toNat ≤ 0xFFFE)

/-- R230, R231, R232: RESET sets every BusState field and leaves the queue, the mode, every byte of memory and the rest. -/
def Obligations.ResetReinitialisesTheBlock : Prop :=
  decodeHost 0x10000#18 = .ok .reset ∧
  ∀ s : State, ∃ t, exec .reset s = .next t ∧
    (∀ a : Addr, t.presence.flag a = decide ((a - 0xFEC0#16).toNat < 319)) ∧
    t = { s with
      base := 0xFEC0#16, count := 15#8, kbdStatus := 0x00#8, lastDisk := 0#8, presence := t.presence }

/-- R234: after RESET an address is live exactly when its band is routed and it lies in 0xFEC0..0xFFFE. -/
def Obligations.LivenessAfterReset : Prop :=
  ∀ s : State, ∃ t, exec .reset s = .next t ∧
    ∀ a : Addr, t.isLive a = true ↔ s.routed a = true ∧ 0xFEC0 ≤ a.toNat ∧ a.toNat < 0xFEC0 + 4 + 15 * 21

/-- R176: KEY appends the low byte of the code, or drops it when the queue is full; nothing else changes. -/
def Obligations.KeyEnqueuesOrDrops : Prop :=
  ∀ (s : State) (code : BitVec 16), decodeHost (0b10#2 ++ code) = .ok (.key code) ∧ ∃ t, exec (.key code) s = .next t ∧
    (s.kbdQueue.length < s.cfg.kbdQueueCap →
      t = { s with kbdQueue := s.kbdQueue ++ [BitVec.ofNat 8 (code.toNat % 256)] }) ∧
    (s.cfg.kbdQueueCap ≤ s.kbdQueue.length → t = s)

/-! ### Reads -/

/-- R110, R120, R150, R151, R69: a read of memory returns the byte of the read view and changes nothing else. R170: a read
of the keyboard's command byte returns the keyboard status. -/
def Obligations.ReadsReturnAByteAndChangeNothing : Prop :=
  (decodeCommand 0x0000#16 = .ok .plainRd ∧ decodeCommand 0x1000#16 = .ok (.hdrRd .command) ∧
    decodeCommand 0x2000#16 = .ok (.hdrRd .target) ∧ decodeCommand 0x3000#16 = .ok (.hdrRd .count) ∧
    decodeCommand 0x5000#16 = .ok .dcbParRd ∧ decodeCommand 0x4200#16 = .ok (.dcbCmdRd .prn) ∧
    decodeCommand 0x4300#16 = .ok (.dcbCmdRd .dsk) ∧ decodeCommand 0x4400#16 = .ok (.dcbCmdRd .tap) ∧
    decodeCommand 0x4500#16 = .ok (.dcbCmdRd .rpt) ∧ decodeCommand 0x4600#16 = .ok (.dcbCmdRd .unk) ∧
    decodeCommand 0x4100#16 = .ok .kbdStatusRd) ∧
  ∀ s : State,
    (∀ i : Instr, (i = .plainRd ∨ i = .dcbParRd ∨ (∃ h, i = .hdrRd h) ∨ ∃ dev, i = .dcbCmdRd dev) →
      exec i s = .next { s with readData := some (s.mem.get ((s.maps.read.get (page s.addr)).phys s.addr)) }) ∧
    exec .kbdStatusRd s = .next { s with readData := some s.kbdStatus }

/-! ### Single stores -/

/-- R111, R122, R127, R129, R152: these writes store their byte through the write view and do nothing else: no echo, no
dispatch, no log, no register changed; a write to ROM is discarded. -/
def Obligations.SingleStoreWrites : Prop :=
  (∀ v : Byte, decodeCommand (0x80#8 ++ v) = .ok (.plainWr v) ∧ decodeCommand (0xA0#8 ++ v) = .ok (.hdrParamWr v) ∧
    decodeCommand (0xD0#8 ++ v) = .ok (.dcbParWr v) ∧ decodeCommand 0x9000#16 = .ok .hdrNop ∧
    (0x80 ≤ v.toNat → decodeCommand (0x90#8 ++ v) = .ok (.hdrHigh v))) ∧
  ∀ (s : State) (i : Instr) (v : Byte), s.mem.wf = true →
    (i = .plainWr v ∨ (i = .hdrNop ∧ v = 0x00#8) ∨ i = .hdrHigh v ∨ i = .hdrParamWr v ∨ i = .dcbParWr v) →
    ∃ t, exec i s = .next t ∧ t = { s with mem := t.mem } ∧ s.StoresOnlyAt t s.addr ∧
      ((s.writeHandle s.addr).region.kind ≠ .rom → t.mem.get (s.writePhys s.addr) = v)

/-- R110, R111, R36: an access that is not live reads or writes its one byte and starts nothing, whatever the byte is. -/
def Obligations.AccessesThatAreNotLiveStartNothing : Prop :=
  ∀ (s : State) (x : Access) (rest : List Input),
    s.inputs = .cpu x.toWord :: rest → s.isLive x.addr = false →
    ∃ t, step s = .next t ∧
      (x.we = true → t = { s with inputs := rest, addr := x.addr, readData := none, mem := t.mem } ∧
        t.mem = (s.memWrite x.addr x.data).mem) ∧
      (x.we = false → t = { s with inputs := rest, addr := x.addr, readData := some (s.memRead x.addr) })

/-! ### Header -/

/-- R123, R124: sync leaves the acknowledge 0x81 or 0x82 in the header command byte; nothing else changes. -/
def Obligations.SyncCommandsEcho : Prop :=
  decodeCommand 0x9001#16 = .ok .hdrSyncCpu ∧ decodeCommand 0x9002#16 = .ok .hdrSyncPctl ∧
  ∀ s : State, s.Inv → s.target s.addr = .hdr .command →
    (∃ t, exec .hdrSyncCpu s = .next t ∧ t = { s with mem := t.mem } ∧ s.StoresOnlyAt t s.addr ∧
      t.memRead s.addr = 0x81#8) ∧
    (∃ t, exec .hdrSyncPctl s = .next t ∧ t = { s with mem := t.mem } ∧ s.StoresOnlyAt t s.addr ∧
      t.memRead s.addr = 0x82#8)

/-- R126: an unimplemented header command leaves its own value in the byte and adds one log event. -/
def Obligations.UnimplementedHeaderCommandIsLogged : Prop :=
  ∀ (s : State) (v : Byte), s.Inv → s.target s.addr = .hdr .command → 0x04 ≤ v.toNat → v.toNat < 0x80 →
    decodeCommand (0x90#8 ++ v) = .ok (.hdrUnimpl v) ∧
    ∃ t, exec (.hdrUnimpl v) s = .next t ∧ s.StoresOnlyAt t s.addr ∧ t.memRead s.addr = v ∧
      t = { s with mem := t.mem, events := s.events ++ [.unimplementedHeaderCommand v] }

/-- R128: a write of the device count leaves `V OR 0x80` in the byte and loads `min(V, 15)`. -/
def Obligations.CountWriteEchoesAndLoads : Prop :=
  ∀ (s : State) (v : Byte), s.Inv → s.target s.addr = .hdr .count →
    decodeCommand (0xB0#8 ++ v) = .ok (.hdrCountWr v) ∧
    ∃ t, exec (.hdrCountWr v) s = .next t ∧ s.StoresOnlyAt t s.addr ∧ t.memRead s.addr = v ||| 0x80#8 ∧
      t.count.toNat = min v.toNat 15 ∧ t = { s with mem := t.mem, count := t.count }

/-- R242, R128: the new count governs liveness at once: what is live after it is the header and the slots below it. -/
def Obligations.CountTakesEffectAtOnce : Prop :=
  ∀ (s : State) (v : Byte), s.Inv → s.target s.addr = .hdr .count →
    ∃ t, exec (.hdrCountWr v) s = .next t ∧
      ∀ a : Addr, t.isLive a = true ↔ s.routed a = true ∧ (a - s.base).toNat < 4 + 21 * min v.toNat 15

/-- R125, R131, R132(a): relocate echoes 0x83 at the old base, moves the window to the little-endian target at header
offsets 1 and 2, flags exactly the new window, arms 15 slots, and changes nothing else. -/
def Obligations.RelocateMovesTheWindow : Prop :=
  decodeCommand 0x9003#16 = .ok .hdrRelocate ∧
  ∀ s : State, s.Inv → s.target s.addr = .hdr .command →
    ∃ t, exec .hdrRelocate s = .next t ∧
      t.base.toNat = 256 * (s.memRead (s.base + 2#16)).toNat + (s.memRead (s.base + 1#16)).toNat ∧
      (∀ a : Addr, t.presence.flag a = decide ((a - t.base).toNat < 319)) ∧
      t.memRead s.base = 0x83#8 ∧ s.StoresOnlyAt t s.base ∧
      t = { s with mem := t.mem, base := t.base, presence := t.presence, count := 15#8 }

/-- R132(b): relocating twice to the same target is relocating once. -/
def Obligations.RelocationIsIdempotent : Prop :=
  ∀ (s : State) (t : Addr), s.Inv → (s.relocate t).relocate t = s.relocate t

/-- R132(c), R244: after a relocation no address of the old window outside the new one is live, and the new window is live
with all 15 slots where its bands are routed. -/
def Obligations.OldWindowIsNotLive : Prop :=
  ∀ (s : State) (t a : Addr), s.Inv →
    ((a - s.base).toNat < 319 → 319 ≤ (a - t).toNat → (s.relocate t).isLive a = false) ∧
    ((a - t).toNat < 319 → s.routed a = true → (s.relocate t).isLive a = true)

/-- R132(d), R97, R241: the program RELOC target, run where the header is live, moves the base to its target, whatever
stands in memory, and serves just its three writes. -/
def Obligations.RelocProgramReachesItsTarget : Prop :=
  ∀ (s : State) (target : Addr) (rest : List Input), s.Inv →
    (∀ k : Nat, k < 3 → s.isLive (s.base + BitVec.ofNat 16 k) = true) →
    s.inputs = (Pseudo.reloc target).inputs s.base ++ rest →
    ∃ t, Host.Core.run Sys2Proof.core 3 s = .next t ∧ t.base = target ∧ t.count = 15#8 ∧
      (∀ a : Addr, t.presence.flag a = decide ((a - target).toNat < 319)) ∧ t.inputs = rest ∧
      t.memRead s.base = 0x83#8 ∧ t.kbdStatus = s.kbdStatus ∧ t.lastDisk = s.lastDisk ∧ t.kbdQueue = s.kbdQueue

/-! ### DCB command writes -/

/-- R156, R155, R173: an ignored value, and an undefined keyboard command, leave V in the command byte, or `V OR 0x80` in
slot 0's; nothing else changes. -/
def Obligations.IgnoredCommandsOnlyStoreAndEcho : Prop :=
  ∀ (s : State) (i : Instr) (dev : DevClass) (v : Byte), s.Inv → s.target s.addr = .dcbCmd dev →
    ((i = .dcbCmdIgnore dev v ∧ (v.toNat = 0 ∨ 0x80 ≤ v.toNat)) ∨
      (i = .kbdUndef v ∧ dev = .kbd ∧ 0x05 ≤ v.toNat ∧ v.toNat < 0x80)) →
    decodeCommand (0xC#4 ++ dev.bits ++ v) = .ok i ∧
    ∃ t, exec i s = .next t ∧ t = { s with mem := t.mem } ∧ s.StoresOnlyAt t s.addr ∧
      t.memRead s.addr = if s.addr = s.base + 4#16 then v ||| 0x80#8 else v

/-- R157: a command to an unknown device leaves the NAK 0x9B and adds one log event with the identity. -/
def Obligations.UnknownDeviceIsNaked : Prop :=
  ∀ (s : State) (v : Byte), s.Inv → s.target s.addr = .dcbCmd .unk → 0x01 ≤ v.toNat → v.toNat < 0x80 →
    decodeCommand (0xC6#8 ++ v) = .ok (.unkNak v) ∧
    ∃ t, exec (.unkNak v) s = .next t ∧ s.StoresOnlyAt t s.addr ∧ t.memRead s.addr = 0x9B#8 ∧
      t = { s with mem := t.mem, events := s.events ++ [.unknownDevice (s.idAt s.addr)] }

/-- R171, R172: keyboard sync leaves 0x80 in the byte and the status; the probe leaves 0x9B in the byte and 0x80 in the
status; the queue and everything else stay. -/
def Obligations.KeyboardSyncAndProbe : Prop :=
  decodeCommand 0xC101#16 = .ok (.kbdSync 0x01#8) ∧ decodeCommand 0xC102#16 = .ok (.kbdSync 0x02#8) ∧
  decodeCommand 0xC103#16 = .ok .kbdProbe ∧
  ∀ s : State, s.Inv → s.target s.addr = .dcbCmd .kbd →
    (∀ v : Byte, (v = 0x01#8 ∨ v = 0x02#8) → ∃ t, exec (.kbdSync v) s = .next t ∧ s.StoresOnlyAt t s.addr ∧
      t.memRead s.addr = 0x80#8 ∧ t = { s with mem := t.mem, kbdStatus := 0x80#8 }) ∧
    (∃ t, exec .kbdProbe s = .next t ∧ s.StoresOnlyAt t s.addr ∧
      t.memRead s.addr = 0x9B#8 ∧ t = { s with mem := t.mem, kbdStatus := 0x80#8 })

/-- R174: the keyboard read takes the first n queued keys (all of them when there are fewer), sets the status to complete
or short, and leaves in memory the store of the command (with its echo), then the keys written from the pointer on in queue
order, then the clear of the command byte when complete; so it changes no byte but those of the command byte and of the
first addresses of the buffer. Pointer and count are the little-endian words at the configured offsets, read before the
fill. -/
def Obligations.KeyboardReadDrainsTheQueue : Prop :=
  ∀ s : State, s.Inv → s.target s.addr = .dcbCmd .kbd →
    let p : Addr := s.memRead16 (s.addr + BitVec.ofNat 16 s.cfg.kbdPtrOff)
    let n : Nat := (s.memRead16 (s.addr + BitVec.ofNat 16 s.cfg.kbdCntOff)).toNat
    let filled : State := (s.storeCommand s.addr 0x04#8).memWrites (fillWrites p s.kbdQueue n)
    ∃ t, exec .kbdReadbuf s = .next t ∧
      t.kbdQueue = s.kbdQueue.drop n ∧
      t.kbdStatus = (if n ≤ s.kbdQueue.length then 0x80#8 else 0x8C#8) ∧
      (n ≤ s.kbdQueue.length → t.memRead s.addr = 0x00#8) ∧
      t.mem = (if n ≤ s.kbdQueue.length then (filled.memWrite s.addr 0x00#8).mem else filled.mem) ∧
      s.StoresOnlyAmong t (s.addr :: (List.range (min n s.kbdQueue.length)).map fun i => p + BitVec.ofNat 16 i) ∧
      t = { s with mem := t.mem, kbdStatus := t.kbdStatus, kbdQueue := t.kbdQueue }

/-- R174: a short read leaves the command byte 0x04, or 0x84 in slot 0, unless a key of the buffer fell on the byte. -/
def Obligations.ShortKeyboardReadKeepsTheCommand : Prop :=
  ∀ s : State, s.Inv → s.target s.addr = .dcbCmd .kbd →
    let p : Addr := s.memRead16 (s.addr + BitVec.ofNat 16 s.cfg.kbdPtrOff)
    let n : Nat := (s.memRead16 (s.addr + BitVec.ofNat 16 s.cfg.kbdCntOff)).toNat
    s.kbdQueue.length < n → (∀ i : Nat, i < s.kbdQueue.length → s.writePhys (p + BitVec.ofNat 16 i) ≠ s.writePhys s.addr) →
    ∃ t, exec .kbdReadbuf s = .next t ∧ t.kbdStatus = 0x8C#8 ∧ t.kbdQueue = [] ∧
      t.memRead s.addr = if s.addr = s.base + 4#16 then 0x84#8 else 0x04#8

/-- R174: each key delivered to a routed address reads back there, in queue order, from the pointer on modulo 2^16, but for
the command byte itself, which a complete read clears afterwards. -/
def Obligations.KeysLandInTheBuffer : Prop :=
  ∀ (s : State) (j : Nat), s.Inv → s.target s.addr = .dcbCmd .kbd →
    let p : Addr := s.memRead16 (s.addr + BitVec.ofNat 16 s.cfg.kbdPtrOff)
    let n : Nat := (s.memRead16 (s.addr + BitVec.ofNat 16 s.cfg.kbdCntOff)).toNat
    (∀ i : Nat, i < n → i < s.kbdQueue.length → s.routed (p + BitVec.ofNat 16 i) = true) →
    j < n → p + BitVec.ofNat 16 j ≠ s.addr → (hj : j < s.kbdQueue.length) →
    ∃ t, exec .kbdReadbuf s = .next t ∧ t.memRead (p + BitVec.ofNat 16 j) = s.kbdQueue[j]

/-- R177, R178, R188: a printer command leaves `V OR 0x80` in the byte and does nothing else: no media request, no data. -/
def Obligations.PrinterCommandsAreAcknowledged : Prop :=
  ∀ (s : State) (v : Byte), s.Inv → s.target s.addr = .dcbCmd .prn → 0x01 ≤ v.toNat → v.toNat < 0x80 →
    decodeCommand (0xC2#8 ++ v) = .ok (.prnCmd v) ∧
    ∃ t, exec (.prnCmd v) s = .next t ∧ t = { s with mem := t.mem } ∧ s.StoresOnlyAt t s.addr ∧
      t.memRead s.addr = v ||| 0x80#8

/-- R180, R186, R187: a disk command caches the index `id - 4`, hands one request to the media subsystem, makes the writes
that asks for, and leaves `V OR 0x80` whatever they are; besides the byte only those writes change memory. The subsystem is
free (log 3). -/
def Obligations.DiskCommandsCacheRequestAndAcknowledge : Prop :=
  ∀ (s : State) (v : Byte), s.Inv → s.target s.addr = .dcbCmd .dsk → 0x01 ≤ v.toNat → v.toNat < 0x80 →
    decodeCommand (0xC3#8 ++ v) = .ok (.dskCmd v) ∧
    ∃ (t : State) (k : Fin 4), exec (.dskCmd v) s = .next t ∧ (s.idAt s.addr).toNat = 4 + k.val ∧
      t.lastDisk.toNat = k.val ∧ t.memRead s.addr = v ||| 0x80#8 ∧
      t.mem = (((s.storeCommand s.addr v).memWrites (s.mediaReply .disk k v)).memWrite s.addr (v ||| 0x80#8)).mem ∧
      s.StoresOnlyAmong t (s.addr :: (s.mediaReply .disk k v).map Prod.fst) ∧
      t = { s with
        mem := t.mem, lastDisk := t.lastDisk
        mediaRequests := s.mediaRequests ++ [{ kind := .disk, index := k, cmd := v, dcb := s.addr }] }

/-- R181, R91, R186, R187: a tape command hands one request with the tape index to the media subsystem and leaves
`V OR 0x80`; the cached disk stays. -/
def Obligations.TapeCommandsRequestAndAcknowledge : Prop :=
  ∀ (s : State) (v : Byte), s.Inv → s.target s.addr = .dcbCmd .tap → 0x01 ≤ v.toNat → v.toNat < 0x80 →
    decodeCommand (0xC4#8 ++ v) = .ok (.tapCmd v) ∧
    ∃ (t : State) (k : Fin 4), exec (.tapCmd v) s = .next t ∧
      (s.idAt s.addr).toNat / 16 + 2 * ((s.idAt s.addr).toNat % 2) = k.val ∧ t.memRead s.addr = v ||| 0x80#8 ∧
      t.mem = (((s.storeCommand s.addr v).memWrites (s.mediaReply .tape k v)).memWrite s.addr (v ||| 0x80#8)).mem ∧
      s.StoresOnlyAmong t (s.addr :: (s.mediaReply .tape k v).map Prod.fst) ∧
      t = { s with
        mem := t.mem
        mediaRequests := s.mediaRequests ++ [{ kind := .tape, index := k, cmd := v, dcb := s.addr }] }

/-- R183, R186, R187: a repeat command hands its own command to the media subsystem for the cached disk and leaves
`V OR 0x80`; the cached disk stays. -/
def Obligations.RepeatCommandsUseTheCachedDisk : Prop :=
  ∀ (s : State) (v : Byte), s.Inv → s.target s.addr = .dcbCmd .rpt → 0x01 ≤ v.toNat → v.toNat < 0x80 →
    decodeCommand (0xC5#8 ++ v) = .ok (.dskRepeat v) ∧
    ∃ (t : State) (k : Fin 4), exec (.dskRepeat v) s = .next t ∧ k.val = s.lastDisk.toNat ∧
      t.memRead s.addr = v ||| 0x80#8 ∧
      t.mem = (((s.storeCommand s.addr v).memWrites (s.mediaReply .disk k v)).memWrite s.addr (v ||| 0x80#8)).mem ∧
      s.StoresOnlyAmong t (s.addr :: (s.mediaReply .disk k v).map Prod.fst) ∧
      t = { s with
        mem := t.mem
        mediaRequests := s.mediaRequests ++ [{ kind := .disk, index := k, cmd := v, dcb := s.addr }] }

/-- R247, R155: after a CPU write to slot 0's live command byte, that byte has bit 7 set, whatever the device and the value,
unless the write is a keyboard read (whose buffer may lie over the byte, and whose completion clears it). -/
def Obligations.SlotZeroCommandByteKeepsBitSeven : Prop :=
  ∀ (s : State) (v : Byte) (rest : List Input), s.Inv → s.isLive (s.base + 4#16) = true →
    s.inputs = .cpu (Access.toWord { we := true, addr := s.base + 4#16, data := v }) :: rest →
    (v = 0x04#8 → route (s.idAt (s.base + 4#16)) ≠ .keyboard) →
    ∃ t, step s = .next t ∧ 0x80 ≤ (t.memRead (s.base + 4#16)).toNat

/-- R154: the command of a live command byte goes where its identity says at the moment of the write, whatever the slot:
the operation served is the one of the identity's class and the value. -/
def Obligations.RoutingIsByIdentityAlone : Prop :=
  ∀ (s : State) (a : Addr) (v : Byte) (slot : Nat) (rest : List Input), s.Inv → s.isLive a = true → slot < 15 →
    a = s.base + BitVec.ofNat 16 (4 + 21 * slot) →
    s.inputs = .cpu (Access.toWord { we := true, addr := a, data := v }) :: rest →
    0x01 ≤ v.toNat → v.toNat < 0x80 →
    step s = exec (decodeDeviceCommand (route (s.idAt a)).cls v)
      { s with inputs := rest, readData := none, addr := a }
end

