-- ==== Sys2Proof/Laws/Core.lean ====
section
/-! SUPPORT. Running the machine several steps. -/

namespace Sys2Proof.Machine

/-- One step of a longer run, on any machine. -/
theorem run_succ_of_next (M : Host.Core) {k : Nat} {s t : M.State} (h : M.step s = .next t) :
    M.run (k + 1) s = M.run k t := by
  rw [Host.Core.run, h]

/-- One step of a longer run of this machine. -/
theorem core_run_succ {k : Nat} {s t : State} (h : step s = .next t) :
    Host.Core.run Sys2Proof.core (k + 1) s = Host.Core.run Sys2Proof.core k t :=
  run_succ_of_next Sys2Proof.core h

end Sys2Proof.Machine
end

