-- ==== Sys2Proof/Laws/Decode.lean ====
section
/-! SUPPORT. The fields of packed words, and what the decoder makes of them. -/

namespace Sys2Proof

theorem extract_high {n m : Nat} (x : BitVec n) (y : BitVec m) (k len : Nat) :
    (x ++ y).extractLsb' (m + k) len = x.extractLsb' k len := by
  rw [BitVec.extractLsb'_append_eq_of_le (by omega)]
  congr 1
  omega

theorem extract_low {n m : Nat} (x : BitVec n) (y : BitVec m) {k len : Nat} (h : k + len ≤ m) :
    (x ++ y).extractLsb' k len = y.extractLsb' k len :=
  BitVec.extractLsb'_append_eq_of_add_le h

theorem extract_self {n : Nat} (x : BitVec n) : x.extractLsb' 0 n = x := by simp

/-- The fields of a command word (30_encoding.md R84). -/
theorem packCommand_fields (we : Bool) (t : Target) (v : Byte) :
    (packCommand we t v).getLsbD 15 = we ∧ (packCommand we t v).extractLsb' 12 3 = t.reg ∧
      (packCommand we t v).extractLsb' 8 4 = t.dev ∧ (packCommand we t v).extractLsb' 0 8 = v := by
  unfold packCommand
  refine ⟨?_, ?_, ?_, ?_⟩
  · rw [BitVec.getLsbD_append, if_neg (by omega), BitVec.getLsbD_append, if_neg (by omega), BitVec.getLsbD_append,
      if_neg (by omega)]
    simp
  · rw [extract_high (m := 8) _ v 4, extract_high (m := 4) _ t.dev 0, extract_low _ _ (by omega), extract_self]
  · rw [extract_high (m := 8) _ v 0, extract_low _ _ (by omega), extract_self]
  · rw [extract_low _ _ (by omega), extract_self]

/-- A command word is its fields. -/
theorem commandWord_ext {w w' : CommandWord} (h15 : w.getLsbD 15 = w'.getLsbD 15)
    (hr : w.extractLsb' 12 3 = w'.extractLsb' 12 3) (hd : w.extractLsb' 8 4 = w'.extractLsb' 8 4)
    (hv : w.extractLsb' 0 8 = w'.extractLsb' 0 8) : w = w' := by
  apply BitVec.eq_of_getLsbD_eq
  intro i hi
  by_cases h : i < 8
  · simpa [h] using congrArg (fun x : BitVec 8 => x.getLsbD i) hv
  · by_cases h' : i < 12
    · simpa [show i - 8 < 4 by omega, show 8 + (i - 8) = i by omega] using
        congrArg (fun x : BitVec 4 => x.getLsbD (i - 8)) hd
    · by_cases h'' : i < 15
      · simpa [show i - 12 < 3 by omega, show 12 + (i - 12) = i by omega] using
          congrArg (fun x : BitVec 3 => x.getLsbD (i - 12)) hr
      · obtain rfl : i = 15 := by omega
        exact h15

theorem Target.ofBits_self (t : Target) : Target.ofBits t.reg t.dev = .ok t := by
  cases t with
  | plain => decide
  | hdr h => cases h <;> decide
  | dcbCmd d => cases d <;> decide
  | dcbPar => decide

theorem Target.ofBits_ok {reg : BitVec 3} {dev : BitVec 4} {t : Target} (h : Target.ofBits reg dev = .ok t) :
    t.reg = reg ∧ t.dev = dev := by
  revert reg dev
  cases t with
  | plain => decide
  | hdr h => cases h <;> decide
  | dcbCmd d => cases d <;> decide
  | dcbPar => decide

/-- What the decoder reads from a packed word (R92). -/
theorem decodeCommand_pack (we : Bool) (t : Target) (v : Byte) :
    decodeCommand (packCommand we t v) =
      if we then .ok (decodeWrite t v) else if v = 0x00#8 then .ok (decodeRead t) else .error .readWithData := by
  obtain ⟨h1, h2, h3, h4⟩ := packCommand_fields we t v
  unfold decodeCommand
  rw [h1, h2, h3, h4, Target.ofBits_self]

/-- Every command word that decodes is a packed one. -/
theorem decodeCommand_ok {w : CommandWord} {i : Instr} (h : decodeCommand w = .ok i) :
    (∃ t v, w = packCommand true t v ∧ i = decodeWrite t v) ∨
      (∃ t, w = packCommand false t 0x00#8 ∧ i = decodeRead t) := by
  unfold decodeCommand at h
  dsimp only at h
  split at h
  · cases h
  · next t ht =>
    obtain ⟨hr, hd⟩ := Target.ofBits_ok ht
    obtain ⟨p1, p2, p3, p4⟩ := packCommand_fields true t (w.extractLsb' 0 8)
    obtain ⟨q1, q2, q3, q4⟩ := packCommand_fields false t (w.extractLsb' 0 8)
    split at h
    · next hw =>
      cases h
      exact .inl ⟨t, _, commandWord_ext (hw.trans p1.symm) (hr.symm.trans p2.symm) (hd.symm.trans p3.symm) p4.symm, rfl⟩
    · next hw =>
      split at h
      · next hv =>
        cases h
        refine .inr ⟨t, ?_, rfl⟩
        rw [← hv]
        exact commandWord_ext ((by simpa using hw : w.getLsbD 15 = false).trans q1.symm) (hr.symm.trans q2.symm)
          (hd.symm.trans q3.symm) q4.symm
      · cases h

theorem hostWord_fields (op : BitVec 2) (code : BitVec 16) :
    (op ++ code).extractLsb' 16 2 = op ∧ (op ++ code).extractLsb' 0 16 = code :=
  ⟨by rw [extract_high (m := 16) _ code 0, extract_self], by rw [extract_low _ _ (by omega), extract_self]⟩

/-- The access a transaction word carries (R80, R93). -/
theorem Access.ofWord_toWord (x : Access) :
    Access.ofWord x.toWord = { x with data := if x.we then x.data else 0x00#8 } := by
  obtain ⟨we, a, d⟩ := x
  have h24 : (Access.toWord ⟨we, a, d⟩).getLsbD 24 = we := by
    simp only [Access.toWord]
    rw [BitVec.getLsbD_append, if_neg (by omega), BitVec.getLsbD_append, if_neg (by omega)]
    simp
  have ha : (Access.toWord ⟨we, a, d⟩).extractLsb' 8 16 = a := by
    simp only [Access.toWord]
    rw [extract_high (m := 8) _ _ 0, extract_low _ _ (by omega), extract_self]
  have hd : (Access.toWord ⟨we, a, d⟩).extractLsb' 0 8 = if we then d else 0x00#8 := by
    simp only [Access.toWord]
    rw [extract_low _ _ (by omega), extract_self]
  simp only [Access.ofWord, h24, ha, hd]
  cases we <;> rfl

/-- What decodes is well-formed. -/
theorem decodeWrite_wf (t : Target) (v : Byte) : (decodeWrite t v).wf = true := by
  cases t with
  | plain => rfl
  | dcbPar => rfl
  | hdr h => cases h <;> revert v <;> decide
  | dcbCmd d => cases d <;> revert v <;> decide

theorem decodeRead_wf (t : Target) : (decodeRead t).wf = true := by
  cases t with
  | plain => rfl
  | dcbPar => rfl
  | hdr h => rfl
  | dcbCmd d => cases d <;> rfl

end Sys2Proof
end

