-- ==== Sys2Proof/Laws/Memory.lean ====
section
/-! SUPPORT. Reading and storing one byte of memory, and the canonical form. -/

namespace Sys2Proof

theorem Memory.get_consCell (n : Nat) (v : Byte) (m : Memory) (x : Nat) (h : Memory.get m n = Memory.unlisted) :
    Memory.get (Memory.consCell n v m) x = if x = n then v else Memory.get m x := by
  unfold Memory.consCell
  by_cases hx : x = n
  · subst hx
    split
    · next hv => simp [h, hv]
    · simp [Memory.get]
  · have : n ≠ x := fun e => hx e.symm
    split <;> simp [Memory.get, this]

/-- No entry lies below the bound. -/
theorem Memory.get_below {lo : Nat} {m : Memory} (h : Memory.wfAbove lo m = true) {n : Nat} (hn : n < lo) :
    Memory.get m n = Memory.unlisted := by
  induction m generalizing lo with
  | nil => rfl
  | cons c m ih =>
    obtain ⟨k, b⟩ := c
    simp [Memory.wfAbove] at h
    simp [Memory.get, show k ≠ n by omega, ih h.2 (by omega)]

theorem Memory.wfAbove_mono {lo lo' : Nat} {m : Memory} (h : Memory.wfAbove lo m = true) (hl : lo' ≤ lo) :
    Memory.wfAbove lo' m = true := by
  cases m with
  | nil => rfl
  | cons c m => simp [Memory.wfAbove] at h ⊢; exact ⟨⟨by omega, h.1.2⟩, h.2⟩

theorem Memory.get_set_ne (m : Memory) {n x : Nat} (v : Byte) (h : x ≠ n) :
    Memory.get (Memory.set m n v) x = Memory.get m x := by
  have hn : n ≠ x := fun e => h e.symm
  induction m with
  | nil => simp only [Memory.set, Memory.consCell]; split <;> simp [Memory.get, hn]
  | cons c m ih =>
    obtain ⟨k, b⟩ := c
    simp only [Memory.set, Memory.consCell]
    split
    · split <;> simp [Memory.get, hn]
    · split
      · next e => subst e; split <;> simp [Memory.get, hn]
      · simp [Memory.get, ih]

theorem Memory.get_set_above {lo : Nat} {m : Memory} (hm : Memory.wfAbove lo m = true) (n : Nat) (v : Byte) :
    Memory.get (Memory.set m n v) n = v := by
  induction m generalizing lo with
  | nil => rw [Memory.set, Memory.get_consCell _ _ _ _ rfl, if_pos rfl]
  | cons c m ih =>
    obtain ⟨k, b⟩ := c
    have hm' := hm
    simp [Memory.wfAbove] at hm'
    simp only [Memory.set]
    split
    · next hlt =>
      rw [Memory.get_consCell _ _ _ _ ?_, if_pos rfl]
      simp [Memory.get, show k ≠ n by omega, Memory.get_below hm'.2 (show n < k + 1 by omega)]
    · split
      · next e => rw [Memory.get_consCell _ _ _ _ (Memory.get_below hm'.2 (by omega)), if_pos rfl]
      · next hk => simp [Memory.get, show k ≠ n from fun e => hk e.symm, ih hm'.2]

/-- A byte reads as what was stored in it. -/
theorem Memory.get_set_self {m : Memory} (hm : m.wf = true) (n : Nat) (v : Byte) :
    Memory.get (Memory.set m n v) n = v := Memory.get_set_above hm n v

theorem Memory.get_set {m : Memory} (hm : m.wf = true) (n x : Nat) (v : Byte) :
    Memory.get (Memory.set m n v) x = if x = n then v else Memory.get m x := by
  split
  · next e => subst e; exact Memory.get_set_self hm x v
  · next e => exact Memory.get_set_ne m v e

theorem Memory.consCell_wfAbove {lo n : Nat} {v : Byte} {m : Memory} (hl : lo ≤ n)
    (h : Memory.wfAbove (n + 1) m = true) : Memory.wfAbove lo (Memory.consCell n v m) = true := by
  unfold Memory.consCell
  split
  · exact Memory.wfAbove_mono h (by omega)
  · next hv => simp [Memory.wfAbove, hl, hv, h]

theorem Memory.set_wfAbove {lo : Nat} {m : Memory} (hm : Memory.wfAbove lo m = true) (n : Nat) (v : Byte) (hl : lo ≤ n) :
    Memory.wfAbove lo (Memory.set m n v) = true := by
  induction m generalizing lo with
  | nil => exact Memory.consCell_wfAbove hl rfl
  | cons c m ih =>
    obtain ⟨k, b⟩ := c
    have hm' := hm
    simp [Memory.wfAbove] at hm'
    simp only [Memory.set]
    split
    · refine Memory.consCell_wfAbove hl ?_
      simp [Memory.wfAbove, hm'.1.2, hm'.2]; omega
    · split
      · next e => subst e; exact Memory.consCell_wfAbove hl hm'.2
      · simp [Memory.wfAbove, hm'.1.1, hm'.1.2, ih hm'.2 (by omega)]

/-- Storing keeps the canonical form. -/
theorem Memory.set_wf {m : Memory} (hm : m.wf = true) (n : Nat) (v : Byte) : (Memory.set m n v).wf = true :=
  Memory.set_wfAbove hm n v (Nat.zero_le n)

end Sys2Proof
end

