-- ==== Sys2Proof/Laws/PageMap.lean ====
section
/-! SUPPORT. Pages, bands and handles: distinct handles select distinct bytes, and what a legal configuration says of a
routed band. -/

namespace Sys2Proof

theorem Region.code_inj {r r' : Region} (h : r.code = r'.code) : r = r' := by
  cases r <;> cases r' <;> simp [Region.code] at h ⊢ <;> omega

theorem pofs_lt (a : Addr) : pofs a < 0x2000 := Nat.mod_lt _ (by decide)

/-- Two handles show the same frame only if they are the same handle. -/
theorem Handle.pageNumber_inj {h h' : Handle} (e : h.pageNumber = h'.pageNumber) : h = h' := by
  obtain ⟨r, f⟩ := h
  obtain ⟨r', f'⟩ := h'
  unfold Handle.pageNumber at e
  dsimp only at e
  split at e
  · next hm =>
    split at e
    · next hm' => rw [hm.1, hm'.1, e]
    · omega
  · split at e
    · omega
    · obtain ⟨hc, hf⟩ := Nat.pair_eq_pair.mp (Nat.add_left_cancel e)
      rw [Region.code_inj hc, hf]

/-- Two handles select the same physical byte only if they are the same handle, at the same place in the page. -/
theorem Handle.phys_inj {h h' : Handle} {a a' : Addr} (e : h.phys a = h'.phys a') : h = h' ∧ pofs a = pofs a' := by
  have p := pofs_lt a
  have p' := pofs_lt a'
  unfold Handle.phys at e
  exact ⟨Handle.pageNumber_inj (by omega), by omega⟩

theorem Handle.phys_eq_iff (h h' : Handle) (a a' : Addr) : h.phys a = h'.phys a' ↔ h = h' ∧ pofs a = pofs a' := by
  refine ⟨Handle.phys_inj, ?_⟩
  rintro ⟨rfl, e⟩
  simp [Handle.phys, e]

theorem pofs_add_ne {a : Addr} {k : Addr} (h0 : 0 < k.toNat) (h1 : k.toNat < 0x2000) : pofs (a + k) ≠ pofs a := by
  unfold pofs
  rw [BitVec.toNat_add]
  omega

theorem page_pofs_ext {a b : Addr} (hp : page a = page b) (ho : pofs a = pofs b) : a = b := by
  have hp' : a.toNat / 0x2000 = b.toNat / 0x2000 := congrArg Fin.val hp
  unfold pofs at ho
  apply BitVec.eq_of_toNat_eq
  omega

theorem page_mem_band (a : Addr) : page a ∈ bandPages (band a) := by
  have ha := a.isLt
  unfold band page bandPages
  split
  · simp; omega
  · split
    · simp [Fin.ext_iff]; omega
    · simp [Fin.ext_iff]; omega

theorem mainRamAt_kind (p : Fin 8) : (mainRamAt p).region.kind = .ram := rfl

theorem mainRamAt_inj {p q : Fin 8} (h : mainRamAt p = mainRamAt q) : p = q := by
  have := congrArg Handle.frame h
  exact Fin.ext this

theorem ModeMap.handles_of_band {m : ModeMap} {b : Fin 3} (h : m.bandOnMainRam b = true) {p : Fin 8}
    (hp : p ∈ bandPages b) : m.read.get p = mainRamAt p ∧ m.write.get p = mainRamAt p := by
  have := List.all_eq_true.mp h p hp
  simpa [ModeMap.pageOnMainRam] using this

theorem Config.modeMap_wf {c : Config} (hc : c.wf = true) {m : Nat} (hm : m < c.modes.length) :
    c.wfMode (c.modeMap m) = true := by
  have hall : c.modes.all c.wfMode = true := by
    simp only [Config.wf, Bool.and_eq_true] at hc
    exact hc.1.1.1.1.1.2
  have : c.modeMap m = c.modes[m] := by
    simp [Config.modeMap, List.getD_eq_getElem?_getD, List.getElem?_eq_getElem hm]
  rw [this]
  exact List.all_eq_true.mp hall _ (List.getElem_mem hm)

/-- In a legal configuration a mode routes exactly the bands it maps onto main RAM (R59). -/
theorem Config.routed_eq {c : Config} (hc : c.wf = true) {m : Nat} (hm : m < c.modes.length) (b : Fin 3) :
    (c.modeMap m).routed.get b = (c.modeMap m).bandOnMainRam b := by
  have := Config.modeMap_wf hc hm
  simp only [Config.wfMode, Bool.and_eq_true, decide_eq_true_eq] at this
  rw [this.2]
  match b with
  | 0 => rfl
  | 1 => rfl
  | 2 => rfl

theorem Config.readHandle_wf {c : Config} (hc : c.wf = true) {m : Nat} (hm : m < c.modes.length) (p : Fin 8) :
    c.hasFrame ((c.modeMap m).read.get p) = true ∧ ((c.modeMap m).read.get p).region.kind ≠ .sink := by
  have := Config.modeMap_wf hc hm
  simp only [Config.wfMode, Bool.and_eq_true] at this
  have h := List.all_eq_true.mp this.1.1 ((c.modeMap m).read.get p) (by simp [Vector.get_eq_getElem])
  simpa using h

theorem Config.writeHandle_wf {c : Config} (hc : c.wf = true) {m : Nat} (hm : m < c.modes.length) (p : Fin 8) :
    c.hasFrame ((c.modeMap m).write.get p) = true := by
  have := Config.modeMap_wf hc hm
  simp only [Config.wfMode, Bool.and_eq_true] at this
  exact List.all_eq_true.mp this.1.2 ((c.modeMap m).write.get p) (by simp [Vector.get_eq_getElem])

/-- The keyboard fields lie in the DCB past its command byte (R9, D19), and the queue has room for a key (D20). -/
theorem Config.wf_keyboard {c : Config} (hc : c.wf = true) :
    1 ≤ c.kbdPtrOff ∧ c.kbdPtrOff + 1 < 21 ∧ 1 ≤ c.kbdCntOff ∧ c.kbdCntOff + 1 < 21 ∧ 1 ≤ c.kbdQueueCap := by
  simp only [Config.wf, Bool.and_eq_true, decide_eq_true_eq] at hc
  omega

theorem Config.reference_wf : Config.reference.wf = true := by decide +kernel

end Sys2Proof
end

