-- ==== Sys2Proof/Laws/Presence.lean ====
section
/-! SUPPORT. Which addresses each operation on the presence table flags. -/

namespace Sys2Proof

/-- The window at `b` flags exactly the addresses at offsets 0..318. -/
theorem Presence.flag_window (b a : Addr) :
    (Presence.window b).flag a = decide ((a - b).toNat < windowSize) := by
  have hb : b.toNat < 65536 := b.isLt
  have ha : a.toNat < 65536 := a.isLt
  unfold Presence.window Presence.flag windowSize
  rw [BitVec.getLsbD_rotateLeft, BitVec.toNat_sub]
  simp only [BitVec.getLsbD_setWidth, BitVec.getLsbD_allOnes, Nat.mod_eq_of_lt hb]
  by_cases h : a.toNat < b.toNat
  · simp only [h, decide_true, cond_true]
    rw [show (2 ^ 16 - b.toNat + a.toNat) % 2 ^ 16 = 65536 - b.toNat + a.toNat by omega]
    rw [Bool.eq_iff_iff]; simp only [Bool.and_eq_true, decide_eq_true_eq]; omega
  · simp only [h, decide_false, cond_false]
    rw [show (2 ^ 16 - b.toNat + a.toNat) % 2 ^ 16 = a.toNat - b.toNat by omega]
    rw [Bool.eq_iff_iff]
    simp only [Bool.and_eq_true, decide_eq_true_eq]; omega

theorem Presence.flag_clearWindow (p : Presence) (b a : Addr) :
    (p.clearWindow b).flag a = (p.flag a && !decide ((a - b).toNat < windowSize)) := by
  rw [← Presence.flag_window]
  have ha : a.toNat < 65536 := a.isLt
  simp [Presence.clearWindow, Presence.flag, ha]

theorem Presence.flag_setWindow (p : Presence) (b a : Addr) :
    (p.setWindow b).flag a = (p.flag a || decide ((a - b).toNat < windowSize)) := by
  rw [← Presence.flag_window]
  simp [Presence.setWindow, Presence.flag]

theorem Presence.flag_setFlag (p : Presence) (b a : Addr) :
    (p.setFlag b).flag a = (p.flag a || decide (a = b)) := by
  have ha : a.toNat < 65536 := a.isLt
  have key : (1#65536 <<< b.toNat).getLsbD a.toNat = decide (a.toNat = b.toNat) := by
    rw [BitVec.getLsbD_shiftLeft]
    by_cases h : a.toNat < b.toNat
    · simp [h]; omega
    · simp [ha, h, BitVec.getLsbD_one]; omega
  have : (a = b) ↔ (a.toNat = b.toNat) := BitVec.toNat_inj.symm
  simp only [Presence.setFlag, Presence.flag, BitVec.getLsbD_or, key, this]

/-- Two tables with the same flags are the same table. -/
theorem Presence.ext_flag {p q : Presence} (h : ∀ a, p.flag a = q.flag a) : p = q := by
  apply BitVec.eq_of_getLsbD_eq
  intro i hi
  have := h (BitVec.ofNat 16 i)
  simpa [Presence.flag, BitVec.toNat_ofNat, Nat.mod_eq_of_lt hi] using this

end Sys2Proof
end

