-- ==== Sys2Proof/Laws/State.lean ====
section
/-! SUPPORT. What each update of the state does to each field: one lemma a field, so that no later proof unfolds an update.
-/

namespace Sys2Proof.Machine

variable (s : State)

/-! ### giveData -/

@[simp] theorem State.giveData_base (v : Byte) : (s.giveData v).base = s.base := rfl
@[simp] theorem State.giveData_presence (v : Byte) : (s.giveData v).presence = s.presence := rfl
@[simp] theorem State.giveData_count (v : Byte) : (s.giveData v).count = s.count := rfl
@[simp] theorem State.giveData_kbdStatus (v : Byte) : (s.giveData v).kbdStatus = s.kbdStatus := rfl
@[simp] theorem State.giveData_lastDisk (v : Byte) : (s.giveData v).lastDisk = s.lastDisk := rfl
@[simp] theorem State.giveData_kbdQueue (v : Byte) : (s.giveData v).kbdQueue = s.kbdQueue := rfl
@[simp] theorem State.giveData_mode (v : Byte) : (s.giveData v).mode = s.mode := rfl
@[simp] theorem State.giveData_mem (v : Byte) : (s.giveData v).mem = s.mem := rfl
@[simp] theorem State.giveData_cfg (v : Byte) : (s.giveData v).cfg = s.cfg := rfl
@[simp] theorem State.giveData_inputs (v : Byte) : (s.giveData v).inputs = s.inputs := rfl
@[simp] theorem State.giveData_addr (v : Byte) : (s.giveData v).addr = s.addr := rfl
@[simp] theorem State.giveData_readData (v : Byte) : (s.giveData v).readData = some v := rfl
@[simp] theorem State.giveData_mediaRequests (v : Byte) : (s.giveData v).mediaRequests = s.mediaRequests := rfl
@[simp] theorem State.giveData_events (v : Byte) : (s.giveData v).events = s.events := rfl
@[simp] theorem State.giveData_maps (v : Byte) : (s.giveData v).maps = s.maps := by simp [State.maps]
@[simp] theorem State.giveData_writeHandle (v : Byte) (x : Addr) : (s.giveData v).writeHandle x = s.writeHandle x := by simp [State.writeHandle]
@[simp] theorem State.giveData_writePhys (v : Byte) (x : Addr) : (s.giveData v).writePhys x = s.writePhys x := by simp [State.writePhys]
@[simp] theorem State.giveData_readPhys (v : Byte) (x : Addr) : (s.giveData v).readPhys x = s.readPhys x := by simp [State.readPhys]
@[simp] theorem State.giveData_routed (v : Byte) (x : Addr) : (s.giveData v).routed x = s.routed x := by simp [State.routed]
@[simp] theorem State.giveData_memRead (v : Byte) (x : Addr) : (s.giveData v).memRead x = s.memRead x := rfl

/-! ### setKbdStatus -/

@[simp] theorem State.setKbdStatus_base (v : Byte) : (s.setKbdStatus v).base = s.base := rfl
@[simp] theorem State.setKbdStatus_presence (v : Byte) : (s.setKbdStatus v).presence = s.presence := rfl
@[simp] theorem State.setKbdStatus_count (v : Byte) : (s.setKbdStatus v).count = s.count := rfl
@[simp] theorem State.setKbdStatus_kbdStatus (v : Byte) : (s.setKbdStatus v).kbdStatus = v := rfl
@[simp] theorem State.setKbdStatus_lastDisk (v : Byte) : (s.setKbdStatus v).lastDisk = s.lastDisk := rfl
@[simp] theorem State.setKbdStatus_kbdQueue (v : Byte) : (s.setKbdStatus v).kbdQueue = s.kbdQueue := rfl
@[simp] theorem State.setKbdStatus_mode (v : Byte) : (s.setKbdStatus v).mode = s.mode := rfl
@[simp] theorem State.setKbdStatus_mem (v : Byte) : (s.setKbdStatus v).mem = s.mem := rfl
@[simp] theorem State.setKbdStatus_cfg (v : Byte) : (s.setKbdStatus v).cfg = s.cfg := rfl
@[simp] theorem State.setKbdStatus_inputs (v : Byte) : (s.setKbdStatus v).inputs = s.inputs := rfl
@[simp] theorem State.setKbdStatus_addr (v : Byte) : (s.setKbdStatus v).addr = s.addr := rfl
@[simp] theorem State.setKbdStatus_readData (v : Byte) : (s.setKbdStatus v).readData = s.readData := rfl
@[simp] theorem State.setKbdStatus_mediaRequests (v : Byte) : (s.setKbdStatus v).mediaRequests = s.mediaRequests := rfl
@[simp] theorem State.setKbdStatus_events (v : Byte) : (s.setKbdStatus v).events = s.events := rfl
@[simp] theorem State.setKbdStatus_maps (v : Byte) : (s.setKbdStatus v).maps = s.maps := by simp [State.maps]
@[simp] theorem State.setKbdStatus_writeHandle (v : Byte) (x : Addr) : (s.setKbdStatus v).writeHandle x = s.writeHandle x := by simp [State.writeHandle]
@[simp] theorem State.setKbdStatus_writePhys (v : Byte) (x : Addr) : (s.setKbdStatus v).writePhys x = s.writePhys x := by simp [State.writePhys]
@[simp] theorem State.setKbdStatus_readPhys (v : Byte) (x : Addr) : (s.setKbdStatus v).readPhys x = s.readPhys x := by simp [State.readPhys]
@[simp] theorem State.setKbdStatus_routed (v : Byte) (x : Addr) : (s.setKbdStatus v).routed x = s.routed x := by simp [State.routed]
@[simp] theorem State.setKbdStatus_memRead (v : Byte) (x : Addr) : (s.setKbdStatus v).memRead x = s.memRead x := rfl

/-! ### setCount -/

@[simp] theorem State.setCount_base (v : Byte) : (s.setCount v).base = s.base := rfl
@[simp] theorem State.setCount_presence (v : Byte) : (s.setCount v).presence = s.presence := rfl
@[simp] theorem State.setCount_count (v : Byte) : (s.setCount v).count = v := rfl
@[simp] theorem State.setCount_kbdStatus (v : Byte) : (s.setCount v).kbdStatus = s.kbdStatus := rfl
@[simp] theorem State.setCount_lastDisk (v : Byte) : (s.setCount v).lastDisk = s.lastDisk := rfl
@[simp] theorem State.setCount_kbdQueue (v : Byte) : (s.setCount v).kbdQueue = s.kbdQueue := rfl
@[simp] theorem State.setCount_mode (v : Byte) : (s.setCount v).mode = s.mode := rfl
@[simp] theorem State.setCount_mem (v : Byte) : (s.setCount v).mem = s.mem := rfl
@[simp] theorem State.setCount_cfg (v : Byte) : (s.setCount v).cfg = s.cfg := rfl
@[simp] theorem State.setCount_inputs (v : Byte) : (s.setCount v).inputs = s.inputs := rfl
@[simp] theorem State.setCount_addr (v : Byte) : (s.setCount v).addr = s.addr := rfl
@[simp] theorem State.setCount_readData (v : Byte) : (s.setCount v).readData = s.readData := rfl
@[simp] theorem State.setCount_mediaRequests (v : Byte) : (s.setCount v).mediaRequests = s.mediaRequests := rfl
@[simp] theorem State.setCount_events (v : Byte) : (s.setCount v).events = s.events := rfl
@[simp] theorem State.setCount_maps (v : Byte) : (s.setCount v).maps = s.maps := by simp [State.maps]
@[simp] theorem State.setCount_writeHandle (v : Byte) (x : Addr) : (s.setCount v).writeHandle x = s.writeHandle x := by simp [State.writeHandle]
@[simp] theorem State.setCount_writePhys (v : Byte) (x : Addr) : (s.setCount v).writePhys x = s.writePhys x := by simp [State.writePhys]
@[simp] theorem State.setCount_readPhys (v : Byte) (x : Addr) : (s.setCount v).readPhys x = s.readPhys x := by simp [State.readPhys]
@[simp] theorem State.setCount_routed (v : Byte) (x : Addr) : (s.setCount v).routed x = s.routed x := by simp [State.routed]
@[simp] theorem State.setCount_memRead (v : Byte) (x : Addr) : (s.setCount v).memRead x = s.memRead x := rfl

/-! ### setLastDisk -/

@[simp] theorem State.setLastDisk_base (v : Byte) : (s.setLastDisk v).base = s.base := rfl
@[simp] theorem State.setLastDisk_presence (v : Byte) : (s.setLastDisk v).presence = s.presence := rfl
@[simp] theorem State.setLastDisk_count (v : Byte) : (s.setLastDisk v).count = s.count := rfl
@[simp] theorem State.setLastDisk_kbdStatus (v : Byte) : (s.setLastDisk v).kbdStatus = s.kbdStatus := rfl
@[simp] theorem State.setLastDisk_lastDisk (v : Byte) : (s.setLastDisk v).lastDisk = v := rfl
@[simp] theorem State.setLastDisk_kbdQueue (v : Byte) : (s.setLastDisk v).kbdQueue = s.kbdQueue := rfl
@[simp] theorem State.setLastDisk_mode (v : Byte) : (s.setLastDisk v).mode = s.mode := rfl
@[simp] theorem State.setLastDisk_mem (v : Byte) : (s.setLastDisk v).mem = s.mem := rfl
@[simp] theorem State.setLastDisk_cfg (v : Byte) : (s.setLastDisk v).cfg = s.cfg := rfl
@[simp] theorem State.setLastDisk_inputs (v : Byte) : (s.setLastDisk v).inputs = s.inputs := rfl
@[simp] theorem State.setLastDisk_addr (v : Byte) : (s.setLastDisk v).addr = s.addr := rfl
@[simp] theorem State.setLastDisk_readData (v : Byte) : (s.setLastDisk v).readData = s.readData := rfl
@[simp] theorem State.setLastDisk_mediaRequests (v : Byte) : (s.setLastDisk v).mediaRequests = s.mediaRequests := rfl
@[simp] theorem State.setLastDisk_events (v : Byte) : (s.setLastDisk v).events = s.events := rfl
@[simp] theorem State.setLastDisk_maps (v : Byte) : (s.setLastDisk v).maps = s.maps := by simp [State.maps]
@[simp] theorem State.setLastDisk_writeHandle (v : Byte) (x : Addr) : (s.setLastDisk v).writeHandle x = s.writeHandle x := by simp [State.writeHandle]
@[simp] theorem State.setLastDisk_writePhys (v : Byte) (x : Addr) : (s.setLastDisk v).writePhys x = s.writePhys x := by simp [State.writePhys]
@[simp] theorem State.setLastDisk_readPhys (v : Byte) (x : Addr) : (s.setLastDisk v).readPhys x = s.readPhys x := by simp [State.readPhys]
@[simp] theorem State.setLastDisk_routed (v : Byte) (x : Addr) : (s.setLastDisk v).routed x = s.routed x := by simp [State.routed]
@[simp] theorem State.setLastDisk_memRead (v : Byte) (x : Addr) : (s.setLastDisk v).memRead x = s.memRead x := rfl

/-! ### setQueue -/

@[simp] theorem State.setQueue_base (q : List Byte) : (s.setQueue q).base = s.base := rfl
@[simp] theorem State.setQueue_presence (q : List Byte) : (s.setQueue q).presence = s.presence := rfl
@[simp] theorem State.setQueue_count (q : List Byte) : (s.setQueue q).count = s.count := rfl
@[simp] theorem State.setQueue_kbdStatus (q : List Byte) : (s.setQueue q).kbdStatus = s.kbdStatus := rfl
@[simp] theorem State.setQueue_lastDisk (q : List Byte) : (s.setQueue q).lastDisk = s.lastDisk := rfl
@[simp] theorem State.setQueue_kbdQueue (q : List Byte) : (s.setQueue q).kbdQueue = q := rfl
@[simp] theorem State.setQueue_mode (q : List Byte) : (s.setQueue q).mode = s.mode := rfl
@[simp] theorem State.setQueue_mem (q : List Byte) : (s.setQueue q).mem = s.mem := rfl
@[simp] theorem State.setQueue_cfg (q : List Byte) : (s.setQueue q).cfg = s.cfg := rfl
@[simp] theorem State.setQueue_inputs (q : List Byte) : (s.setQueue q).inputs = s.inputs := rfl
@[simp] theorem State.setQueue_addr (q : List Byte) : (s.setQueue q).addr = s.addr := rfl
@[simp] theorem State.setQueue_readData (q : List Byte) : (s.setQueue q).readData = s.readData := rfl
@[simp] theorem State.setQueue_mediaRequests (q : List Byte) : (s.setQueue q).mediaRequests = s.mediaRequests := rfl
@[simp] theorem State.setQueue_events (q : List Byte) : (s.setQueue q).events = s.events := rfl
@[simp] theorem State.setQueue_maps (q : List Byte) : (s.setQueue q).maps = s.maps := by simp [State.maps]
@[simp] theorem State.setQueue_writeHandle (q : List Byte) (x : Addr) : (s.setQueue q).writeHandle x = s.writeHandle x := by simp [State.writeHandle]
@[simp] theorem State.setQueue_writePhys (q : List Byte) (x : Addr) : (s.setQueue q).writePhys x = s.writePhys x := by simp [State.writePhys]
@[simp] theorem State.setQueue_readPhys (q : List Byte) (x : Addr) : (s.setQueue q).readPhys x = s.readPhys x := by simp [State.readPhys]
@[simp] theorem State.setQueue_routed (q : List Byte) (x : Addr) : (s.setQueue q).routed x = s.routed x := by simp [State.routed]
@[simp] theorem State.setQueue_memRead (q : List Byte) (x : Addr) : (s.setQueue q).memRead x = s.memRead x := rfl

/-! ### requestMedia -/

@[simp] theorem State.requestMedia_base (r : MediaRequest) : (s.requestMedia r).base = s.base := rfl
@[simp] theorem State.requestMedia_presence (r : MediaRequest) : (s.requestMedia r).presence = s.presence := rfl
@[simp] theorem State.requestMedia_count (r : MediaRequest) : (s.requestMedia r).count = s.count := rfl
@[simp] theorem State.requestMedia_kbdStatus (r : MediaRequest) : (s.requestMedia r).kbdStatus = s.kbdStatus := rfl
@[simp] theorem State.requestMedia_lastDisk (r : MediaRequest) : (s.requestMedia r).lastDisk = s.lastDisk := rfl
@[simp] theorem State.requestMedia_kbdQueue (r : MediaRequest) : (s.requestMedia r).kbdQueue = s.kbdQueue := rfl
@[simp] theorem State.requestMedia_mode (r : MediaRequest) : (s.requestMedia r).mode = s.mode := rfl
@[simp] theorem State.requestMedia_mem (r : MediaRequest) : (s.requestMedia r).mem = s.mem := rfl
@[simp] theorem State.requestMedia_cfg (r : MediaRequest) : (s.requestMedia r).cfg = s.cfg := rfl
@[simp] theorem State.requestMedia_inputs (r : MediaRequest) : (s.requestMedia r).inputs = s.inputs := rfl
@[simp] theorem State.requestMedia_addr (r : MediaRequest) : (s.requestMedia r).addr = s.addr := rfl
@[simp] theorem State.requestMedia_readData (r : MediaRequest) : (s.requestMedia r).readData = s.readData := rfl
@[simp] theorem State.requestMedia_mediaRequests (r : MediaRequest) : (s.requestMedia r).mediaRequests = s.mediaRequests ++ [r] := rfl
@[simp] theorem State.requestMedia_events (r : MediaRequest) : (s.requestMedia r).events = s.events := rfl
@[simp] theorem State.requestMedia_maps (r : MediaRequest) : (s.requestMedia r).maps = s.maps := by simp [State.maps]
@[simp] theorem State.requestMedia_writeHandle (r : MediaRequest) (x : Addr) : (s.requestMedia r).writeHandle x = s.writeHandle x := by simp [State.writeHandle]
@[simp] theorem State.requestMedia_writePhys (r : MediaRequest) (x : Addr) : (s.requestMedia r).writePhys x = s.writePhys x := by simp [State.writePhys]
@[simp] theorem State.requestMedia_readPhys (r : MediaRequest) (x : Addr) : (s.requestMedia r).readPhys x = s.readPhys x := by simp [State.readPhys]
@[simp] theorem State.requestMedia_routed (r : MediaRequest) (x : Addr) : (s.requestMedia r).routed x = s.routed x := by simp [State.routed]
@[simp] theorem State.requestMedia_memRead (r : MediaRequest) (x : Addr) : (s.requestMedia r).memRead x = s.memRead x := rfl

/-! ### logEvent -/

@[simp] theorem State.logEvent_base (e : LogEvent) : (s.logEvent e).base = s.base := rfl
@[simp] theorem State.logEvent_presence (e : LogEvent) : (s.logEvent e).presence = s.presence := rfl
@[simp] theorem State.logEvent_count (e : LogEvent) : (s.logEvent e).count = s.count := rfl
@[simp] theorem State.logEvent_kbdStatus (e : LogEvent) : (s.logEvent e).kbdStatus = s.kbdStatus := rfl
@[simp] theorem State.logEvent_lastDisk (e : LogEvent) : (s.logEvent e).lastDisk = s.lastDisk := rfl
@[simp] theorem State.logEvent_kbdQueue (e : LogEvent) : (s.logEvent e).kbdQueue = s.kbdQueue := rfl
@[simp] theorem State.logEvent_mode (e : LogEvent) : (s.logEvent e).mode = s.mode := rfl
@[simp] theorem State.logEvent_mem (e : LogEvent) : (s.logEvent e).mem = s.mem := rfl
@[simp] theorem State.logEvent_cfg (e : LogEvent) : (s.logEvent e).cfg = s.cfg := rfl
@[simp] theorem State.logEvent_inputs (e : LogEvent) : (s.logEvent e).inputs = s.inputs := rfl
@[simp] theorem State.logEvent_addr (e : LogEvent) : (s.logEvent e).addr = s.addr := rfl
@[simp] theorem State.logEvent_readData (e : LogEvent) : (s.logEvent e).readData = s.readData := rfl
@[simp] theorem State.logEvent_mediaRequests (e : LogEvent) : (s.logEvent e).mediaRequests = s.mediaRequests := rfl
@[simp] theorem State.logEvent_events (e : LogEvent) : (s.logEvent e).events = s.events ++ [e] := rfl
@[simp] theorem State.logEvent_maps (e : LogEvent) : (s.logEvent e).maps = s.maps := by simp [State.maps]
@[simp] theorem State.logEvent_writeHandle (e : LogEvent) (x : Addr) : (s.logEvent e).writeHandle x = s.writeHandle x := by simp [State.writeHandle]
@[simp] theorem State.logEvent_writePhys (e : LogEvent) (x : Addr) : (s.logEvent e).writePhys x = s.writePhys x := by simp [State.writePhys]
@[simp] theorem State.logEvent_readPhys (e : LogEvent) (x : Addr) : (s.logEvent e).readPhys x = s.readPhys x := by simp [State.readPhys]
@[simp] theorem State.logEvent_routed (e : LogEvent) (x : Addr) : (s.logEvent e).routed x = s.routed x := by simp [State.routed]
@[simp] theorem State.logEvent_memRead (e : LogEvent) (x : Addr) : (s.logEvent e).memRead x = s.memRead x := rfl

/-! ### relocate -/

@[simp] theorem State.relocate_base (t : Addr) : (s.relocate t).base = t := rfl
@[simp] theorem State.relocate_presence (t : Addr) : (s.relocate t).presence = (s.presence.clearWindow s.base).setWindow t := rfl
@[simp] theorem State.relocate_count (t : Addr) : (s.relocate t).count = 15#8 := rfl
@[simp] theorem State.relocate_kbdStatus (t : Addr) : (s.relocate t).kbdStatus = s.kbdStatus := rfl
@[simp] theorem State.relocate_lastDisk (t : Addr) : (s.relocate t).lastDisk = s.lastDisk := rfl
@[simp] theorem State.relocate_kbdQueue (t : Addr) : (s.relocate t).kbdQueue = s.kbdQueue := rfl
@[simp] theorem State.relocate_mode (t : Addr) : (s.relocate t).mode = s.mode := rfl
@[simp] theorem State.relocate_mem (t : Addr) : (s.relocate t).mem = s.mem := rfl
@[simp] theorem State.relocate_cfg (t : Addr) : (s.relocate t).cfg = s.cfg := rfl
@[simp] theorem State.relocate_inputs (t : Addr) : (s.relocate t).inputs = s.inputs := rfl
@[simp] theorem State.relocate_addr (t : Addr) : (s.relocate t).addr = s.addr := rfl
@[simp] theorem State.relocate_readData (t : Addr) : (s.relocate t).readData = s.readData := rfl
@[simp] theorem State.relocate_mediaRequests (t : Addr) : (s.relocate t).mediaRequests = s.mediaRequests := rfl
@[simp] theorem State.relocate_events (t : Addr) : (s.relocate t).events = s.events := rfl
@[simp] theorem State.relocate_maps (t : Addr) : (s.relocate t).maps = s.maps := by simp [State.maps]
@[simp] theorem State.relocate_writeHandle (t : Addr) (x : Addr) : (s.relocate t).writeHandle x = s.writeHandle x := by simp [State.writeHandle]
@[simp] theorem State.relocate_writePhys (t : Addr) (x : Addr) : (s.relocate t).writePhys x = s.writePhys x := by simp [State.writePhys]
@[simp] theorem State.relocate_readPhys (t : Addr) (x : Addr) : (s.relocate t).readPhys x = s.readPhys x := by simp [State.readPhys]
@[simp] theorem State.relocate_routed (t : Addr) (x : Addr) : (s.relocate t).routed x = s.routed x := by simp [State.routed]
@[simp] theorem State.relocate_memRead (t : Addr) (x : Addr) : (s.relocate t).memRead x = s.memRead x := rfl

/-! ### accept -/

@[simp] theorem State.accept_base (r : List Input) : (s.accept r).base = s.base := rfl
@[simp] theorem State.accept_presence (r : List Input) : (s.accept r).presence = s.presence := rfl
@[simp] theorem State.accept_count (r : List Input) : (s.accept r).count = s.count := rfl
@[simp] theorem State.accept_kbdStatus (r : List Input) : (s.accept r).kbdStatus = s.kbdStatus := rfl
@[simp] theorem State.accept_lastDisk (r : List Input) : (s.accept r).lastDisk = s.lastDisk := rfl
@[simp] theorem State.accept_kbdQueue (r : List Input) : (s.accept r).kbdQueue = s.kbdQueue := rfl
@[simp] theorem State.accept_mode (r : List Input) : (s.accept r).mode = s.mode := rfl
@[simp] theorem State.accept_mem (r : List Input) : (s.accept r).mem = s.mem := rfl
@[simp] theorem State.accept_cfg (r : List Input) : (s.accept r).cfg = s.cfg := rfl
@[simp] theorem State.accept_inputs (r : List Input) : (s.accept r).inputs = r := rfl
@[simp] theorem State.accept_addr (r : List Input) : (s.accept r).addr = s.addr := rfl
@[simp] theorem State.accept_readData (r : List Input) : (s.accept r).readData = none := rfl
@[simp] theorem State.accept_mediaRequests (r : List Input) : (s.accept r).mediaRequests = s.mediaRequests := rfl
@[simp] theorem State.accept_events (r : List Input) : (s.accept r).events = s.events := rfl
@[simp] theorem State.accept_maps (r : List Input) : (s.accept r).maps = s.maps := by simp [State.maps]
@[simp] theorem State.accept_writeHandle (r : List Input) (x : Addr) : (s.accept r).writeHandle x = s.writeHandle x := by simp [State.writeHandle]
@[simp] theorem State.accept_writePhys (r : List Input) (x : Addr) : (s.accept r).writePhys x = s.writePhys x := by simp [State.writePhys]
@[simp] theorem State.accept_readPhys (r : List Input) (x : Addr) : (s.accept r).readPhys x = s.readPhys x := by simp [State.readPhys]
@[simp] theorem State.accept_routed (r : List Input) (x : Addr) : (s.accept r).routed x = s.routed x := by simp [State.routed]
@[simp] theorem State.accept_memRead (r : List Input) (x : Addr) : (s.accept r).memRead x = s.memRead x := rfl

/-! ### memWrite -/

@[simp] theorem State.memWrite_base (a : Addr) (v : Byte) : (s.memWrite a v).base = s.base := by unfold State.memWrite; split <;> rfl
@[simp] theorem State.memWrite_presence (a : Addr) (v : Byte) : (s.memWrite a v).presence = s.presence := by unfold State.memWrite; split <;> rfl
@[simp] theorem State.memWrite_count (a : Addr) (v : Byte) : (s.memWrite a v).count = s.count := by unfold State.memWrite; split <;> rfl
@[simp] theorem State.memWrite_kbdStatus (a : Addr) (v : Byte) : (s.memWrite a v).kbdStatus = s.kbdStatus := by unfold State.memWrite; split <;> rfl
@[simp] theorem State.memWrite_lastDisk (a : Addr) (v : Byte) : (s.memWrite a v).lastDisk = s.lastDisk := by unfold State.memWrite; split <;> rfl
@[simp] theorem State.memWrite_kbdQueue (a : Addr) (v : Byte) : (s.memWrite a v).kbdQueue = s.kbdQueue := by unfold State.memWrite; split <;> rfl
@[simp] theorem State.memWrite_mode (a : Addr) (v : Byte) : (s.memWrite a v).mode = s.mode := by unfold State.memWrite; split <;> rfl
@[simp] theorem State.memWrite_cfg (a : Addr) (v : Byte) : (s.memWrite a v).cfg = s.cfg := by unfold State.memWrite; split <;> rfl
@[simp] theorem State.memWrite_inputs (a : Addr) (v : Byte) : (s.memWrite a v).inputs = s.inputs := by unfold State.memWrite; split <;> rfl
@[simp] theorem State.memWrite_addr (a : Addr) (v : Byte) : (s.memWrite a v).addr = s.addr := by unfold State.memWrite; split <;> rfl
@[simp] theorem State.memWrite_readData (a : Addr) (v : Byte) : (s.memWrite a v).readData = s.readData := by unfold State.memWrite; split <;> rfl
@[simp] theorem State.memWrite_mediaRequests (a : Addr) (v : Byte) : (s.memWrite a v).mediaRequests = s.mediaRequests := by unfold State.memWrite; split <;> rfl
@[simp] theorem State.memWrite_events (a : Addr) (v : Byte) : (s.memWrite a v).events = s.events := by unfold State.memWrite; split <;> rfl
@[simp] theorem State.memWrite_maps (a : Addr) (v : Byte) : (s.memWrite a v).maps = s.maps := by simp [State.maps]
@[simp] theorem State.memWrite_writeHandle (a : Addr) (v : Byte) (x : Addr) : (s.memWrite a v).writeHandle x = s.writeHandle x := by simp [State.writeHandle]
@[simp] theorem State.memWrite_writePhys (a : Addr) (v : Byte) (x : Addr) : (s.memWrite a v).writePhys x = s.writePhys x := by simp [State.writePhys]
@[simp] theorem State.memWrite_readPhys (a : Addr) (v : Byte) (x : Addr) : (s.memWrite a v).readPhys x = s.readPhys x := by simp [State.readPhys]
@[simp] theorem State.memWrite_routed (a : Addr) (v : Byte) (x : Addr) : (s.memWrite a v).routed x = s.routed x := by simp [State.routed]

/-! ### storeCommand -/

@[simp] theorem State.storeCommand_base (d : Addr) (v : Byte) : (s.storeCommand d v).base = s.base := by unfold State.storeCommand; split <;> simp
@[simp] theorem State.storeCommand_presence (d : Addr) (v : Byte) : (s.storeCommand d v).presence = s.presence := by unfold State.storeCommand; split <;> simp
@[simp] theorem State.storeCommand_count (d : Addr) (v : Byte) : (s.storeCommand d v).count = s.count := by unfold State.storeCommand; split <;> simp
@[simp] theorem State.storeCommand_kbdStatus (d : Addr) (v : Byte) : (s.storeCommand d v).kbdStatus = s.kbdStatus := by unfold State.storeCommand; split <;> simp
@[simp] theorem State.storeCommand_lastDisk (d : Addr) (v : Byte) : (s.storeCommand d v).lastDisk = s.lastDisk := by unfold State.storeCommand; split <;> simp
@[simp] theorem State.storeCommand_kbdQueue (d : Addr) (v : Byte) : (s.storeCommand d v).kbdQueue = s.kbdQueue := by unfold State.storeCommand; split <;> simp
@[simp] theorem State.storeCommand_mode (d : Addr) (v : Byte) : (s.storeCommand d v).mode = s.mode := by unfold State.storeCommand; split <;> simp
@[simp] theorem State.storeCommand_cfg (d : Addr) (v : Byte) : (s.storeCommand d v).cfg = s.cfg := by unfold State.storeCommand; split <;> simp
@[simp] theorem State.storeCommand_inputs (d : Addr) (v : Byte) : (s.storeCommand d v).inputs = s.inputs := by unfold State.storeCommand; split <;> simp
@[simp] theorem State.storeCommand_addr (d : Addr) (v : Byte) : (s.storeCommand d v).addr = s.addr := by unfold State.storeCommand; split <;> simp
@[simp] theorem State.storeCommand_readData (d : Addr) (v : Byte) : (s.storeCommand d v).readData = s.readData := by unfold State.storeCommand; split <;> simp
@[simp] theorem State.storeCommand_mediaRequests (d : Addr) (v : Byte) : (s.storeCommand d v).mediaRequests = s.mediaRequests := by unfold State.storeCommand; split <;> simp
@[simp] theorem State.storeCommand_events (d : Addr) (v : Byte) : (s.storeCommand d v).events = s.events := by unfold State.storeCommand; split <;> simp
@[simp] theorem State.storeCommand_maps (d : Addr) (v : Byte) : (s.storeCommand d v).maps = s.maps := by simp [State.maps]
@[simp] theorem State.storeCommand_writeHandle (d : Addr) (v : Byte) (x : Addr) : (s.storeCommand d v).writeHandle x = s.writeHandle x := by simp [State.writeHandle]
@[simp] theorem State.storeCommand_writePhys (d : Addr) (v : Byte) (x : Addr) : (s.storeCommand d v).writePhys x = s.writePhys x := by simp [State.writePhys]
@[simp] theorem State.storeCommand_readPhys (d : Addr) (v : Byte) (x : Addr) : (s.storeCommand d v).readPhys x = s.readPhys x := by simp [State.readPhys]
@[simp] theorem State.storeCommand_routed (d : Addr) (v : Byte) (x : Addr) : (s.storeCommand d v).routed x = s.routed x := by simp [State.routed]

/-! ### storeEcho -/

@[simp] theorem State.storeEcho_base (v : Byte) : (s.storeEcho v).base = s.base := by simp [State.storeEcho]
@[simp] theorem State.storeEcho_presence (v : Byte) : (s.storeEcho v).presence = s.presence := by simp [State.storeEcho]
@[simp] theorem State.storeEcho_count (v : Byte) : (s.storeEcho v).count = s.count := by simp [State.storeEcho]
@[simp] theorem State.storeEcho_kbdStatus (v : Byte) : (s.storeEcho v).kbdStatus = s.kbdStatus := by simp [State.storeEcho]
@[simp] theorem State.storeEcho_lastDisk (v : Byte) : (s.storeEcho v).lastDisk = s.lastDisk := by simp [State.storeEcho]
@[simp] theorem State.storeEcho_kbdQueue (v : Byte) : (s.storeEcho v).kbdQueue = s.kbdQueue := by simp [State.storeEcho]
@[simp] theorem State.storeEcho_mode (v : Byte) : (s.storeEcho v).mode = s.mode := by simp [State.storeEcho]
@[simp] theorem State.storeEcho_cfg (v : Byte) : (s.storeEcho v).cfg = s.cfg := by simp [State.storeEcho]
@[simp] theorem State.storeEcho_inputs (v : Byte) : (s.storeEcho v).inputs = s.inputs := by simp [State.storeEcho]
@[simp] theorem State.storeEcho_addr (v : Byte) : (s.storeEcho v).addr = s.addr := by simp [State.storeEcho]
@[simp] theorem State.storeEcho_readData (v : Byte) : (s.storeEcho v).readData = s.readData := by simp [State.storeEcho]
@[simp] theorem State.storeEcho_mediaRequests (v : Byte) : (s.storeEcho v).mediaRequests = s.mediaRequests := by simp [State.storeEcho]
@[simp] theorem State.storeEcho_events (v : Byte) : (s.storeEcho v).events = s.events := by simp [State.storeEcho]
@[simp] theorem State.storeEcho_maps (v : Byte) : (s.storeEcho v).maps = s.maps := by simp [State.maps]
@[simp] theorem State.storeEcho_writeHandle (v : Byte) (x : Addr) : (s.storeEcho v).writeHandle x = s.writeHandle x := by simp [State.writeHandle]
@[simp] theorem State.storeEcho_writePhys (v : Byte) (x : Addr) : (s.storeEcho v).writePhys x = s.writePhys x := by simp [State.writePhys]
@[simp] theorem State.storeEcho_readPhys (v : Byte) (x : Addr) : (s.storeEcho v).readPhys x = s.readPhys x := by simp [State.readPhys]
@[simp] theorem State.storeEcho_routed (v : Byte) (x : Addr) : (s.storeEcho v).routed x = s.routed x := by simp [State.routed]

/-! ### ack -/

@[simp] theorem State.ack_base (d : Addr) (v : Byte) : (s.ack d v).base = s.base := by simp [State.ack]
@[simp] theorem State.ack_presence (d : Addr) (v : Byte) : (s.ack d v).presence = s.presence := by simp [State.ack]
@[simp] theorem State.ack_count (d : Addr) (v : Byte) : (s.ack d v).count = s.count := by simp [State.ack]
@[simp] theorem State.ack_kbdStatus (d : Addr) (v : Byte) : (s.ack d v).kbdStatus = s.kbdStatus := by simp [State.ack]
@[simp] theorem State.ack_lastDisk (d : Addr) (v : Byte) : (s.ack d v).lastDisk = s.lastDisk := by simp [State.ack]
@[simp] theorem State.ack_kbdQueue (d : Addr) (v : Byte) : (s.ack d v).kbdQueue = s.kbdQueue := by simp [State.ack]
@[simp] theorem State.ack_mode (d : Addr) (v : Byte) : (s.ack d v).mode = s.mode := by simp [State.ack]
@[simp] theorem State.ack_cfg (d : Addr) (v : Byte) : (s.ack d v).cfg = s.cfg := by simp [State.ack]
@[simp] theorem State.ack_inputs (d : Addr) (v : Byte) : (s.ack d v).inputs = s.inputs := by simp [State.ack]
@[simp] theorem State.ack_addr (d : Addr) (v : Byte) : (s.ack d v).addr = s.addr := by simp [State.ack]
@[simp] theorem State.ack_readData (d : Addr) (v : Byte) : (s.ack d v).readData = s.readData := by simp [State.ack]
@[simp] theorem State.ack_mediaRequests (d : Addr) (v : Byte) : (s.ack d v).mediaRequests = s.mediaRequests := by simp [State.ack]
@[simp] theorem State.ack_events (d : Addr) (v : Byte) : (s.ack d v).events = s.events := by simp [State.ack]
@[simp] theorem State.ack_maps (d : Addr) (v : Byte) : (s.ack d v).maps = s.maps := by simp [State.maps]
@[simp] theorem State.ack_writeHandle (d : Addr) (v : Byte) (x : Addr) : (s.ack d v).writeHandle x = s.writeHandle x := by simp [State.writeHandle]
@[simp] theorem State.ack_writePhys (d : Addr) (v : Byte) (x : Addr) : (s.ack d v).writePhys x = s.writePhys x := by simp [State.writePhys]
@[simp] theorem State.ack_readPhys (d : Addr) (v : Byte) (x : Addr) : (s.ack d v).readPhys x = s.readPhys x := by simp [State.readPhys]
@[simp] theorem State.ack_routed (d : Addr) (v : Byte) (x : Addr) : (s.ack d v).routed x = s.routed x := by simp [State.routed]

/-! ### memWrites -/

@[simp] theorem State.memWrites_base (ws : List (Addr × Byte)) : (s.memWrites ws).base = s.base := by
  induction ws generalizing s with
  | nil => rfl
  | cons w ws ih => obtain ⟨a, v⟩ := w; simp [State.memWrites, ih]
@[simp] theorem State.memWrites_presence (ws : List (Addr × Byte)) : (s.memWrites ws).presence = s.presence := by
  induction ws generalizing s with
  | nil => rfl
  | cons w ws ih => obtain ⟨a, v⟩ := w; simp [State.memWrites, ih]
@[simp] theorem State.memWrites_count (ws : List (Addr × Byte)) : (s.memWrites ws).count = s.count := by
  induction ws generalizing s with
  | nil => rfl
  | cons w ws ih => obtain ⟨a, v⟩ := w; simp [State.memWrites, ih]
@[simp] theorem State.memWrites_kbdStatus (ws : List (Addr × Byte)) : (s.memWrites ws).kbdStatus = s.kbdStatus := by
  induction ws generalizing s with
  | nil => rfl
  | cons w ws ih => obtain ⟨a, v⟩ := w; simp [State.memWrites, ih]
@[simp] theorem State.memWrites_lastDisk (ws : List (Addr × Byte)) : (s.memWrites ws).lastDisk = s.lastDisk := by
  induction ws generalizing s with
  | nil => rfl
  | cons w ws ih => obtain ⟨a, v⟩ := w; simp [State.memWrites, ih]
@[simp] theorem State.memWrites_kbdQueue (ws : List (Addr × Byte)) : (s.memWrites ws).kbdQueue = s.kbdQueue := by
  induction ws generalizing s with
  | nil => rfl
  | cons w ws ih => obtain ⟨a, v⟩ := w; simp [State.memWrites, ih]
@[simp] theorem State.memWrites_mode (ws : List (Addr × Byte)) : (s.memWrites ws).mode = s.mode := by
  induction ws generalizing s with
  | nil => rfl
  | cons w ws ih => obtain ⟨a, v⟩ := w; simp [State.memWrites, ih]
@[simp] theorem State.memWrites_cfg (ws : List (Addr × Byte)) : (s.memWrites ws).cfg = s.cfg := by
  induction ws generalizing s with
  | nil => rfl
  | cons w ws ih => obtain ⟨a, v⟩ := w; simp [State.memWrites, ih]
@[simp] theorem State.memWrites_inputs (ws : List (Addr × Byte)) : (s.memWrites ws).inputs = s.inputs := by
  induction ws generalizing s with
  | nil => rfl
  | cons w ws ih => obtain ⟨a, v⟩ := w; simp [State.memWrites, ih]
@[simp] theorem State.memWrites_addr (ws : List (Addr × Byte)) : (s.memWrites ws).addr = s.addr := by
  induction ws generalizing s with
  | nil => rfl
  | cons w ws ih => obtain ⟨a, v⟩ := w; simp [State.memWrites, ih]
@[simp] theorem State.memWrites_readData (ws : List (Addr × Byte)) : (s.memWrites ws).readData = s.readData := by
  induction ws generalizing s with
  | nil => rfl
  | cons w ws ih => obtain ⟨a, v⟩ := w; simp [State.memWrites, ih]
@[simp] theorem State.memWrites_mediaRequests (ws : List (Addr × Byte)) : (s.memWrites ws).mediaRequests = s.mediaRequests := by
  induction ws generalizing s with
  | nil => rfl
  | cons w ws ih => obtain ⟨a, v⟩ := w; simp [State.memWrites, ih]
@[simp] theorem State.memWrites_events (ws : List (Addr × Byte)) : (s.memWrites ws).events = s.events := by
  induction ws generalizing s with
  | nil => rfl
  | cons w ws ih => obtain ⟨a, v⟩ := w; simp [State.memWrites, ih]
@[simp] theorem State.memWrites_maps (ws : List (Addr × Byte)) : (s.memWrites ws).maps = s.maps := by simp [State.maps]
@[simp] theorem State.memWrites_writeHandle (ws : List (Addr × Byte)) (x : Addr) : (s.memWrites ws).writeHandle x = s.writeHandle x := by simp [State.writeHandle]
@[simp] theorem State.memWrites_writePhys (ws : List (Addr × Byte)) (x : Addr) : (s.memWrites ws).writePhys x = s.writePhys x := by simp [State.writePhys]
@[simp] theorem State.memWrites_readPhys (ws : List (Addr × Byte)) (x : Addr) : (s.memWrites ws).readPhys x = s.readPhys x := by simp [State.readPhys]
@[simp] theorem State.memWrites_routed (ws : List (Addr × Byte)) (x : Addr) : (s.memWrites ws).routed x = s.routed x := by simp [State.routed]

/-! ### media -/

@[simp] theorem State.media_base (k : MediaKind) (i : Fin 4) (v : Byte) (d : Addr) :
    (s.media k i v d).base = s.base := by simp [State.media]
@[simp] theorem State.media_presence (k : MediaKind) (i : Fin 4) (v : Byte) (d : Addr) :
    (s.media k i v d).presence = s.presence := by simp [State.media]
@[simp] theorem State.media_count (k : MediaKind) (i : Fin 4) (v : Byte) (d : Addr) :
    (s.media k i v d).count = s.count := by simp [State.media]
@[simp] theorem State.media_kbdStatus (k : MediaKind) (i : Fin 4) (v : Byte) (d : Addr) :
    (s.media k i v d).kbdStatus = s.kbdStatus := by simp [State.media]
@[simp] theorem State.media_lastDisk (k : MediaKind) (i : Fin 4) (v : Byte) (d : Addr) :
    (s.media k i v d).lastDisk = s.lastDisk := by simp [State.media]
@[simp] theorem State.media_kbdQueue (k : MediaKind) (i : Fin 4) (v : Byte) (d : Addr) :
    (s.media k i v d).kbdQueue = s.kbdQueue := by simp [State.media]
@[simp] theorem State.media_mode (k : MediaKind) (i : Fin 4) (v : Byte) (d : Addr) :
    (s.media k i v d).mode = s.mode := by simp [State.media]
@[simp] theorem State.media_cfg (k : MediaKind) (i : Fin 4) (v : Byte) (d : Addr) :
    (s.media k i v d).cfg = s.cfg := by simp [State.media]
@[simp] theorem State.media_inputs (k : MediaKind) (i : Fin 4) (v : Byte) (d : Addr) :
    (s.media k i v d).inputs = s.inputs := by simp [State.media]
@[simp] theorem State.media_addr (k : MediaKind) (i : Fin 4) (v : Byte) (d : Addr) :
    (s.media k i v d).addr = s.addr := by simp [State.media]
@[simp] theorem State.media_readData (k : MediaKind) (i : Fin 4) (v : Byte) (d : Addr) :
    (s.media k i v d).readData = s.readData := by simp [State.media]
@[simp] theorem State.media_mediaRequests (k : MediaKind) (i : Fin 4) (v : Byte) (d : Addr) :
    (s.media k i v d).mediaRequests = s.mediaRequests ++ [{ kind := k, index := i, cmd := v, dcb := d }] := by simp [State.media]
@[simp] theorem State.media_events (k : MediaKind) (i : Fin 4) (v : Byte) (d : Addr) :
    (s.media k i v d).events = s.events := by simp [State.media]
@[simp] theorem State.media_maps (k : MediaKind) (i : Fin 4) (v : Byte) (d : Addr) : (s.media k i v d).maps = s.maps := by simp [State.maps]
@[simp] theorem State.media_writeHandle (k : MediaKind) (i : Fin 4) (v : Byte) (d : Addr) (x : Addr) : (s.media k i v d).writeHandle x = s.writeHandle x := by simp [State.writeHandle]
@[simp] theorem State.media_writePhys (k : MediaKind) (i : Fin 4) (v : Byte) (d : Addr) (x : Addr) : (s.media k i v d).writePhys x = s.writePhys x := by simp [State.writePhys]
@[simp] theorem State.media_readPhys (k : MediaKind) (i : Fin 4) (v : Byte) (d : Addr) (x : Addr) : (s.media k i v d).readPhys x = s.readPhys x := by simp [State.readPhys]
@[simp] theorem State.media_routed (k : MediaKind) (i : Fin 4) (v : Byte) (d : Addr) (x : Addr) : (s.media k i v d).routed x = s.routed x := by simp [State.routed]

/-! ### kbdFill -/

@[simp] theorem State.kbdFill_base (p : Addr) (i n : Nat) : (s.kbdFill p i n).1.base = s.base := by
  induction n generalizing s i with
  | zero => rfl
  | succ n ih => unfold State.kbdFill; split <;> simp [ih]
@[simp] theorem State.kbdFill_presence (p : Addr) (i n : Nat) : (s.kbdFill p i n).1.presence = s.presence := by
  induction n generalizing s i with
  | zero => rfl
  | succ n ih => unfold State.kbdFill; split <;> simp [ih]
@[simp] theorem State.kbdFill_count (p : Addr) (i n : Nat) : (s.kbdFill p i n).1.count = s.count := by
  induction n generalizing s i with
  | zero => rfl
  | succ n ih => unfold State.kbdFill; split <;> simp [ih]
@[simp] theorem State.kbdFill_kbdStatus (p : Addr) (i n : Nat) : (s.kbdFill p i n).1.kbdStatus = s.kbdStatus := by
  induction n generalizing s i with
  | zero => rfl
  | succ n ih => unfold State.kbdFill; split <;> simp [ih]
@[simp] theorem State.kbdFill_lastDisk (p : Addr) (i n : Nat) : (s.kbdFill p i n).1.lastDisk = s.lastDisk := by
  induction n generalizing s i with
  | zero => rfl
  | succ n ih => unfold State.kbdFill; split <;> simp [ih]
@[simp] theorem State.kbdFill_mode (p : Addr) (i n : Nat) : (s.kbdFill p i n).1.mode = s.mode := by
  induction n generalizing s i with
  | zero => rfl
  | succ n ih => unfold State.kbdFill; split <;> simp [ih]
@[simp] theorem State.kbdFill_cfg (p : Addr) (i n : Nat) : (s.kbdFill p i n).1.cfg = s.cfg := by
  induction n generalizing s i with
  | zero => rfl
  | succ n ih => unfold State.kbdFill; split <;> simp [ih]
@[simp] theorem State.kbdFill_inputs (p : Addr) (i n : Nat) : (s.kbdFill p i n).1.inputs = s.inputs := by
  induction n generalizing s i with
  | zero => rfl
  | succ n ih => unfold State.kbdFill; split <;> simp [ih]
@[simp] theorem State.kbdFill_addr (p : Addr) (i n : Nat) : (s.kbdFill p i n).1.addr = s.addr := by
  induction n generalizing s i with
  | zero => rfl
  | succ n ih => unfold State.kbdFill; split <;> simp [ih]
@[simp] theorem State.kbdFill_readData (p : Addr) (i n : Nat) : (s.kbdFill p i n).1.readData = s.readData := by
  induction n generalizing s i with
  | zero => rfl
  | succ n ih => unfold State.kbdFill; split <;> simp [ih]
@[simp] theorem State.kbdFill_mediaRequests (p : Addr) (i n : Nat) : (s.kbdFill p i n).1.mediaRequests = s.mediaRequests := by
  induction n generalizing s i with
  | zero => rfl
  | succ n ih => unfold State.kbdFill; split <;> simp [ih]
@[simp] theorem State.kbdFill_events (p : Addr) (i n : Nat) : (s.kbdFill p i n).1.events = s.events := by
  induction n generalizing s i with
  | zero => rfl
  | succ n ih => unfold State.kbdFill; split <;> simp [ih]
@[simp] theorem State.kbdFill_maps (p : Addr) (i n : Nat) : (s.kbdFill p i n).1.maps = s.maps := by
  simp [State.maps]

end Sys2Proof.Machine
end

