-- ==== Sys2Proof/Laws/Ops.lean ====
section
/-! SUPPORT. One lemma for each shared operation that says what it does: to memory, byte by byte, and to liveness. -/

namespace Sys2Proof.Machine

/-! ### Memory -/

/-- What one write through the page map does to every byte (20_memory.md R54). -/
theorem State.memWrite_get {s : State} (hm : s.mem.wf = true) (a : Addr) (v : Byte) (n : Nat) :
    (s.memWrite a v).mem.get n =
      if n = s.writePhys a ∧ (s.writeHandle a).region.kind ≠ .rom then v else s.mem.get n := by
  unfold State.memWrite
  by_cases h : (s.writeHandle a).region.kind = .rom
  · simp [h]
  · simp [h, Memory.get_set hm]

theorem State.memWrite_get_ne (s : State) {a : Addr} (v : Byte) {n : Nat}
    (h : n ≠ s.writePhys a ∨ (s.writeHandle a).region.kind = .rom) :
    (s.memWrite a v).mem.get n = s.mem.get n := by
  unfold State.memWrite
  split
  · rfl
  · next hk => exact Memory.get_set_ne _ _ (h.resolve_right hk)

theorem State.memWrite_wf {s : State} (hm : s.mem.wf = true) (a : Addr) (v : Byte) : (s.memWrite a v).mem.wf = true := by
  unfold State.memWrite
  split
  · exact hm
  · exact Memory.set_wf hm _ _

theorem State.storeCommand_wf {s : State} (hm : s.mem.wf = true) (d : Addr) (v : Byte) :
    (s.storeCommand d v).mem.wf = true := by
  unfold State.storeCommand
  split
  · exact State.memWrite_wf (State.memWrite_wf hm _ _) _ _
  · exact State.memWrite_wf hm _ _

theorem State.storeEcho_wf {s : State} (hm : s.mem.wf = true) (v : Byte) : (s.storeEcho v).mem.wf = true :=
  State.memWrite_wf (State.memWrite_wf hm _ _) _ _

theorem State.memWrites_wf {s : State} (hm : s.mem.wf = true) (ws : List (Addr × Byte)) :
    (s.memWrites ws).mem.wf = true := by
  induction ws generalizing s with
  | nil => exact hm
  | cons w ws ih => exact ih (State.memWrite_wf hm _ _)

theorem State.media_wf {s : State} (hm : s.mem.wf = true) (k : MediaKind) (i : Fin 4) (v : Byte) (d : Addr) :
    (s.media k i v d).mem.wf = true := by
  unfold State.media
  exact State.memWrites_wf (by simpa using hm) _

theorem State.ack_wf {s : State} (hm : s.mem.wf = true) (d : Addr) (v : Byte) : (s.ack d v).mem.wf = true :=
  State.memWrite_wf hm _ _

/-- Writes change no byte but the ones their addresses write. -/
theorem State.memWrites_get_ne (s : State) (ws : List (Addr × Byte)) {n : Nat} (h : ∀ w ∈ ws, n ≠ s.writePhys w.1) :
    (s.memWrites ws).mem.get n = s.mem.get n := by
  induction ws generalizing s with
  | nil => rfl
  | cons w ws ih =>
    rw [State.memWrites, ih _ (fun w' h' => by simpa using h w' (List.mem_cons_of_mem _ h'))]
    exact State.memWrite_get_ne s _ (.inl (h w List.mem_cons_self))

/-- Writes through the page map change no byte of a ROM region (R50, R54). -/
theorem State.memWrite_rom (s : State) (a : Addr) (v : Byte) {h : Handle} (hr : h.region.kind = .rom) (b : Addr) :
    (s.memWrite a v).mem.get (h.phys b) = s.mem.get (h.phys b) := by
  refine State.memWrite_get_ne s v ?_
  by_cases hk : (s.writeHandle a).region.kind = .rom
  · exact .inr hk
  · refine .inl fun e => hk ?_
    rw [← (Handle.phys_inj e).1]; exact hr

theorem State.memWrites_rom (s : State) (ws : List (Addr × Byte)) {h : Handle} (hr : h.region.kind = .rom) (b : Addr) :
    (s.memWrites ws).mem.get (h.phys b) = s.mem.get (h.phys b) := by
  induction ws generalizing s with
  | nil => rfl
  | cons w ws ih => rw [State.memWrites, ih, State.memWrite_rom s _ _ hr]

theorem State.storeCommand_get_ne (s : State) {d : Addr} (v : Byte) {n : Nat}
    (h : n ≠ s.writePhys d ∨ (s.writeHandle d).region.kind = .rom) :
    (s.storeCommand d v).mem.get n = s.mem.get n := by
  unfold State.storeCommand
  split
  · rw [State.memWrite_get_ne _ _ (by simpa using h), State.memWrite_get_ne _ _ h]
  · exact State.memWrite_get_ne _ _ h

theorem State.storeEcho_get_ne (s : State) (v : Byte) {n : Nat}
    (h : n ≠ s.writePhys s.addr ∨ (s.writeHandle s.addr).region.kind = .rom) :
    (s.storeEcho v).mem.get n = s.mem.get n := by
  unfold State.storeEcho
  rw [State.memWrite_get_ne _ _ (by simpa using h), State.memWrite_get_ne _ _ h]

/-- A byte at another place of its page is not touched by a write, whatever the page maps are. -/
theorem State.memRead_memWrite_pofs (s : State) {a b : Addr} (v : Byte) (h : pofs b ≠ pofs a) :
    (s.memWrite a v).memRead b = s.memRead b := by
  unfold State.memRead
  rw [State.memWrite_readPhys]
  exact State.memWrite_get_ne s v (.inl fun e => h (Handle.phys_inj e).2)

theorem State.memRead_storeCommand_pofs (s : State) {d b : Addr} (v : Byte) (h : pofs b ≠ pofs d) :
    (s.storeCommand d v).memRead b = s.memRead b := by
  unfold State.storeCommand
  split <;> simp only [State.memRead_memWrite_pofs _ _ h]

/-- The identity read after the command has been stored is the one before (42_dispatch.md R153). -/
theorem State.idAt_storeCommand (s : State) (d : Addr) (v : Byte) : (s.storeCommand d v).idAt d = s.idAt d := by
  unfold State.idAt
  rw [State.memRead_storeCommand_pofs _ _ (pofs_add_ne (by decide) (by decide)),
    State.memRead_storeCommand_pofs _ _ (pofs_add_ne (by decide) (by decide))]

/-! ### Routed and live addresses -/

/-- On a routed band both views are main RAM at the page's own frame (R59). -/
theorem State.routed_handles {s : State} (hi : s.Inv) {a : Addr} (h : s.routed a = true) :
    s.maps.read.get (page a) = mainRamAt (page a) ∧ s.writeHandle a = mainRamAt (page a) := by
  unfold State.routed State.maps at h
  rw [Config.routed_eq hi.cfg hi.mode] at h
  exact ModeMap.handles_of_band h (page_mem_band a)

theorem State.routed_phys {s : State} (hi : s.Inv) {a : Addr} (h : s.routed a = true) :
    s.readPhys a = s.writePhys a ∧ (s.writeHandle a).region.kind = .ram := by
  obtain ⟨hr, hw⟩ := State.routed_handles hi h
  refine ⟨?_, by rw [hw]; rfl⟩
  simp [State.readPhys, State.writePhys, hr, hw]

/-- `is_live` as a conjunction (R61). -/
theorem State.isLive_iff (s : State) (a : Addr) :
    s.isLive a = true ↔ s.presence.flag a = true ∧ s.routed a = true ∧ s.off a < s.liveBound := by
  unfold State.isLive
  split
  · next h => simp [h]
  · split
    · next h => simp [h]
    · split
      · next h h' h'' => simp at h h'; simp [h, h']; omega
      · next h h' h'' => simp at h h'; simp [h, h']; omega

theorem State.isLive_routed {s : State} {a : Addr} (h : s.isLive a = true) : s.routed a = true :=
  ((s.isLive_iff a).mp h).2.1

/-- A byte written through a routed address reads back (R53, R54, R59). -/
theorem State.memRead_memWrite_routed {s : State} (hi : s.Inv) {a : Addr} (h : s.routed a = true) (v : Byte) :
    (s.memWrite a v).memRead a = v := by
  obtain ⟨hp, hk⟩ := State.routed_phys hi h
  unfold State.memRead
  rw [State.memWrite_readPhys, State.memWrite_get hi.mem, if_pos]
  exact ⟨hp, by simp [hk]⟩

/-- Two routed addresses select one byte only if they are the same address (R51, R59). -/
theorem State.readPhys_ne_writePhys {s : State} (hi : s.Inv) {a b : Addr} (ha : s.routed a = true)
    (hb : s.routed b = true) (hne : b ≠ a) : s.readPhys b ≠ s.writePhys a := by
  intro e
  obtain ⟨h1, h2⟩ := Handle.phys_inj e
  have r1 := (State.routed_handles hi hb).1
  have r2 := (State.routed_handles hi ha).2
  unfold State.writeHandle at h1 r2
  rw [r1, r2] at h1
  exact hne (page_pofs_ext (mainRamAt_inj h1) h2)

/-! ### Computed values (30_encoding.md R98) -/

theorem capCount_toNat (v : Byte) : (capCount v).toNat = min v.toNat 15 := by
  unfold capCount
  split
  · omega
  · simp; omega

theorem pair_toNat (hi lo : Byte) : (pair hi lo).toNat = 256 * hi.toNat + lo.toNat := by
  have hl := lo.isLt
  unfold pair
  rw [BitVec.toNat_append, Nat.shiftLeft_eq, Nat.mul_comm hi.toNat, ← Nat.two_pow_add_eq_or_of_lt hl]

/-! ### Targets (30_encoding.md R83) -/

theorem State.target_live {s : State} {a : Addr} (h : s.target a ≠ .plain) : s.isLive a = true := by
  unfold State.target at h
  split at h
  · assumption
  · exact absurd rfl h

theorem State.target_plain_iff (s : State) (a : Addr) : s.target a = .plain ↔ s.isLive a = false := by
  unfold State.target
  split
  · next h =>
    simp only [h]
    split
    · simp
    · split
      · simp
      · split
        · simp
        · split <;> simp
  · next h => simpa using h

theorem State.target_command {s : State} {a : Addr} (h : s.target a = .hdr .command) : a = s.base := by
  have hl := State.target_live (s := s) (a := a) (by simp [h])
  unfold State.target at h
  rw [if_pos hl] at h
  dsimp only at h
  split at h
  · next h0 =>
    have : a - s.base = 0#16 := BitVec.eq_of_toNat_eq h0
    exact (BitVec.sub_eq_iff_eq_add.mp this).trans (by simp)
  · split at h
    · simp at h
    · split at h
      · simp at h
      · split at h <;> simp at h

/-- The target of a live address, by its window offset (R83). -/
theorem State.target_of_live {s : State} {a : Addr} (h : s.isLive a = true) :
    (s.off a = 0 → s.target a = .hdr .command) ∧
      (s.off a = 1 ∨ s.off a = 2 → s.target a = .hdr .target) ∧
      (s.off a = 3 → s.target a = .hdr .count) ∧
      (4 ≤ s.off a → byteOf (s.off a) = 0 → s.target a = .dcbCmd (route (s.idAt (s.dcb (slotOf (s.off a))))).cls) ∧
      (4 ≤ s.off a → byteOf (s.off a) ≠ 0 → s.target a = .dcbPar) := by
  unfold State.target
  rw [if_pos h]
  dsimp only
  refine ⟨fun h0 => if_pos h0, fun h1 => ?_, fun h3 => ?_, fun h4 hb => ?_, fun h4 hb => ?_⟩
  · rw [if_neg (by omega), if_pos h1]
  · rw [if_neg (by omega), if_neg (by omega), if_pos h3]
  · rw [if_neg (by omega), if_neg (by omega), if_neg (by omega), if_pos hb]
  · rw [if_neg (by omega), if_neg (by omega), if_neg (by omega), if_neg hb]

/-- Adding an offset to the base and taking it off again (R60). -/
theorem State.off_base_add (s : State) {k : Nat} (hk : k < 65536) : s.off (s.base + BitVec.ofNat 16 k) = k := by
  unfold State.off
  rw [BitVec.toNat_sub, BitVec.toNat_add, BitVec.toNat_ofNat]
  have := s.base.isLt
  omega

/-- The slot's command byte is the accessed address when the byte within the DCB is 0 (R83, R87). -/
theorem State.dcb_slotOf {s : State} {a : Addr} (h4 : 4 ≤ s.off a) (h : byteOf (s.off a) = 0) :
    s.dcb (slotOf (s.off a)) = a := by
  unfold byteOf at h
  have hlt : s.off a < 65536 := (a - s.base).isLt
  have hd : hdrSize + dcbSize * slotOf (s.off a) = s.off a := by
    unfold slotOf hdrSize dcbSize at *
    omega
  unfold State.dcb
  rw [hd]
  have : BitVec.ofNat 16 (s.off a) = a - s.base := by
    apply BitVec.eq_of_toNat_eq
    simp [State.off]
  rw [this, BitVec.add_comm, BitVec.sub_add_cancel]

/-- A DCB command byte: its address, and the class its identity routes to (R83, R89, R90). -/
theorem State.target_dcbCmd {s : State} {a : Addr} {c : DevClass} (h : s.target a = .dcbCmd c) :
    s.dcb (slotOf (s.off a)) = a ∧ (route (s.idAt a)).cls = c := by
  have hl := State.target_live (s := s) (a := a) (by simp [h])
  unfold State.target at h
  rw [if_pos hl] at h
  dsimp only at h
  split at h
  · simp at h
  · split at h
    · simp at h
    · split at h
      · simp at h
      · split at h
        · next h0 h1 h3 hb =>
          have hd := State.dcb_slotOf (s := s) (a := a) (by omega) hb
          rw [hd] at h
          exact ⟨hd, by simpa using h⟩
        · simp at h

/-! ### The keyboard fill (43_devices.md R174) -/

theorem State.setQueue_memWrite (s : State) (q : List Byte) (a : Addr) (v : Byte) :
    (s.setQueue q).memWrite a v = (s.memWrite a v).setQueue q := by
  unfold State.memWrite
  simp only [State.setQueue_writeHandle, State.setQueue_writePhys, State.setQueue_mem]
  split <;> rfl

theorem State.setKbdStatus_memWrite (s : State) (k : Byte) (a : Addr) (v : Byte) :
    (s.setKbdStatus k).memWrite a v = (s.memWrite a v).setKbdStatus k := by
  unfold State.memWrite
  simp only [State.setKbdStatus_writeHandle, State.setKbdStatus_writePhys, State.setKbdStatus_mem]
  split <;> rfl

theorem State.setQueue_memWrites (s : State) (q : List Byte) (ws : List (Addr × Byte)) :
    (s.setQueue q).memWrites ws = (s.memWrites ws).setQueue q := by
  induction ws generalizing s with
  | nil => rfl
  | cons w ws ih => rw [State.memWrites, State.setQueue_memWrite, ih]; rfl

theorem State.setQueue_setQueue (s : State) (q q' : List Byte) : (s.setQueue q).setQueue q' = s.setQueue q' := rfl

theorem State.setQueue_self (s : State) : s.setQueue s.kbdQueue = s := rfl

/-- The loop in closed form: the first `n` queued keys are written in order and taken off the queue, and the fill is
complete when there were `n` of them. -/
theorem State.kbdFill_eq (s : State) (p : Addr) (i n : Nat) :
    s.kbdFill p i n =
      ((s.memWrites (((s.kbdQueue.take n).zipIdx i).map fun c => (p + BitVec.ofNat 16 c.2, c.1))).setQueue
          (s.kbdQueue.drop n),
        decide (n ≤ s.kbdQueue.length)) := by
  induction n generalizing s i with
  | zero => simp [State.kbdFill, State.memWrites, State.setQueue_self]
  | succ n ih =>
    unfold State.kbdFill
    split
    · next h =>
      have e : s.setQueue [] = s := by rw [← h]; rfl
      simp [h, State.memWrites, e]
    · next c q h =>
      rw [ih]
      simp [h, State.memWrites, State.setQueue_memWrite, State.setQueue_memWrites, State.setQueue_setQueue]

/-- Each write of the fill is one queued key at its own address. -/
theorem fillWrites_mem {p : Addr} {q : List Byte} {m : Nat} {w : Addr × Byte} (h : w ∈ fillWrites p q m) :
    ∃ i, i < min m q.length ∧ ∃ hi : i < q.length, w = (p + BitVec.ofNat 16 i, q[i]) := by
  unfold fillWrites at h
  simp only [List.mem_map] at h
  obtain ⟨⟨b, i⟩, hm, rfl⟩ := h
  have := List.mem_zipIdx hm
  simp at this
  exact ⟨i, by omega, by omega, by simp [this]⟩

/-- The fill from the first key on. -/
theorem State.kbdFill_zero (s : State) (p : Addr) (n : Nat) :
    s.kbdFill p 0 n =
      ((s.memWrites (fillWrites p s.kbdQueue n)).setQueue (s.kbdQueue.drop n), decide (n ≤ s.kbdQueue.length)) :=
  s.kbdFill_eq p 0 n

end Sys2Proof.Machine
end

