-- ==== Sys2Proof/Laws/Keyboard.lean ====
section
/-! SUPPORT. KBD_READBUF without its loop. -/

namespace Sys2Proof.Machine

/-- What the buffer keys leave before the status is set: the fill's writes made, the delivered keys off the queue. -/
def State.filled (s : State) (p : Addr) (n : Nat) : State :=
  (s.memWrites (fillWrites p s.kbdQueue n)).setQueue (s.kbdQueue.drop n)

/-- The memory the fill leaves. -/
@[simp] theorem State.filled_mem (s : State) (p : Addr) (n : Nat) :
    (s.filled p n).mem = (s.memWrites (fillWrites p s.kbdQueue n)).mem := rfl

/-- The memory the fill and the clear of the command byte leave (43_devices.md R174). -/
theorem State.filled_memWrite_mem (s : State) (p : Addr) (n : Nat) (k : Byte) (a : Addr) (v : Byte) :
    (((s.filled p n).setKbdStatus k).memWrite a v).mem =
      ((s.memWrites (fillWrites p s.kbdQueue n)).memWrite a v).mem := by
  rw [State.setKbdStatus_memWrite, State.setKbdStatus_mem]
  unfold State.filled
  rw [State.setQueue_memWrite, State.setQueue_mem]

/-- KBD_READBUF in closed form (43_devices.md R174): complete when `n` keys were queued, short otherwise. -/
theorem execKbdReadbuf_eq (s : State) :
    execKbdReadbuf s =
      let s1 := s.storeCommand s.addr 0x04#8
      let p := s1.kbdPtr s.addr
      let n := (s1.kbdCnt s.addr).toNat
      if n ≤ s1.kbdQueue.length then .next (((s1.filled p n).setKbdStatus kbdReady).memWrite s.addr 0x00#8)
      else .next ((s1.filled p n).setKbdStatus kbdShort) := by
  unfold execKbdReadbuf
  simp only [State.kbdFill_zero, decide_eq_true_eq]
  rfl

/-- Pointer and count are read before the command is stored with the same result: they lie past the command byte. -/
theorem State.memRead16_storeCommand (s : State) (d : Addr) (v : Byte) {k : Nat} (h0 : 1 ≤ k) (h1 : k + 1 < 0x2000) :
    (s.storeCommand d v).memRead16 (d + BitVec.ofNat 16 k) = s.memRead16 (d + BitVec.ofNat 16 k) := by
  have hk : (BitVec.ofNat 16 k).toNat = k := by simp; omega
  have hk1 : d + BitVec.ofNat 16 k + 1#16 = d + BitVec.ofNat 16 (k + 1) := by
    rw [BitVec.add_assoc, ← BitVec.ofNat_add]
  have hk1' : (BitVec.ofNat 16 (k + 1)).toNat = k + 1 := by simp; omega
  unfold State.memRead16
  rw [hk1, State.memRead_storeCommand_pofs _ _ (pofs_add_ne (by omega) (by omega)),
    State.memRead_storeCommand_pofs _ _ (pofs_add_ne (by omega) (by omega))]

/-- The keyboard's pointer and count are the same before and after the command is stored (70_reset R240). -/
theorem State.kbdParams_storeCommand {s : State} (hi : s.Inv) (d : Addr) (v : Byte) :
    (s.storeCommand d v).kbdPtr d = s.kbdPtr d ∧ (s.storeCommand d v).kbdCnt d = s.kbdCnt d := by
  obtain ⟨h1, h2, h3, h4, -⟩ := Config.wf_keyboard hi.cfg
  unfold State.kbdPtr State.kbdCnt
  simp only [State.storeCommand_cfg]
  exact ⟨State.memRead16_storeCommand s _ _ h1 (by omega), State.memRead16_storeCommand s _ _ h3 (by omega)⟩

end Sys2Proof.Machine
end

