-- ==== Sys2Proof/Laws/PerInstr.lean ====
section
/-! SUPPORT. Facts about every operation as syntax, one lemma for each constructor. -/

/-! ### WordShape: the direction bit and the data field of an operation's word (30_encoding.md R81, R84) -/

namespace Sys2Proof.Laws.WordShape

open Sys2Proof

/-- The operations that a read access performs: the rows of R92 with W = 0. -/
def isRead : Instr → Bool
  | .plainRd | .hdrRd _ | .kbdStatusRd | .dcbCmdRd _ | .dcbParRd => true
  | .plainWr _ | .hdrNop | .hdrSyncCpu | .hdrSyncPctl | .hdrRelocate | .hdrUnimpl _ | .hdrHigh _ | .hdrParamWr _
  | .hdrCountWr _ | .dcbParWr _ | .dcbCmdIgnore _ _ | .kbdSync _ | .kbdProbe | .kbdReadbuf | .kbdUndef _ | .prnCmd _
  | .dskCmd _ | .tapCmd _ | .dskRepeat _ | .unkNak _ | .reset | .key _ => false

/-- A command word has W = 0 exactly for a read, whose V is then 0; a host word has OP 0b01 or 0b10. -/
def Statement (i : Instr) : Prop :=
  match encode i with
  | .dcw w => w.getLsbD 15 = !isRead i ∧ (isRead i = true → w.extractLsb' 0 8 = 0x00#8)
  | .hw w => isRead i = false ∧ (w.extractLsb' 16 2 = 0b01#2 ∨ w.extractLsb' 16 2 = 0b10#2)

theorem of_write {i : Instr} {t : Target} {v : Byte} (h : encode i = .dcw (packCommand true t v)) (hr : isRead i = false) :
    Statement i := by
  unfold Statement
  rw [h, hr]
  exact ⟨(packCommand_fields true t v).1, fun hf => nomatch hf⟩

theorem of_read {i : Instr} {t : Target} (h : encode i = .dcw (packCommand false t 0x00#8)) (hr : isRead i = true) :
    Statement i := by
  unfold Statement
  rw [h, hr]
  obtain ⟨h1, -, -, h4⟩ := packCommand_fields false t 0x00#8
  exact ⟨h1, fun _ => h4⟩

theorem plainRd : Statement .plainRd := of_read rfl rfl
theorem plainWr (v : Byte) : Statement (.plainWr v) := of_write rfl rfl
theorem hdrRd (h : HdrClass) : Statement (.hdrRd h) := of_read rfl rfl
theorem hdrNop : Statement .hdrNop := of_write rfl rfl
theorem hdrSyncCpu : Statement .hdrSyncCpu := of_write rfl rfl
theorem hdrSyncPctl : Statement .hdrSyncPctl := of_write rfl rfl
theorem hdrRelocate : Statement .hdrRelocate := of_write rfl rfl
theorem hdrUnimpl (v : Byte) : Statement (.hdrUnimpl v) := of_write rfl rfl
theorem hdrHigh (v : Byte) : Statement (.hdrHigh v) := of_write rfl rfl
theorem hdrParamWr (v : Byte) : Statement (.hdrParamWr v) := of_write rfl rfl
theorem hdrCountWr (v : Byte) : Statement (.hdrCountWr v) := of_write rfl rfl
theorem kbdStatusRd : Statement .kbdStatusRd := of_read rfl rfl
theorem dcbCmdRd (dev : DevClass) : Statement (.dcbCmdRd dev) := of_read rfl rfl
theorem dcbParRd : Statement .dcbParRd := of_read rfl rfl
theorem dcbParWr (v : Byte) : Statement (.dcbParWr v) := of_write rfl rfl
theorem dcbCmdIgnore (dev : DevClass) (v : Byte) : Statement (.dcbCmdIgnore dev v) := of_write rfl rfl
theorem kbdSync (v : Byte) : Statement (.kbdSync v) := of_write rfl rfl
theorem kbdProbe : Statement .kbdProbe := of_write rfl rfl
theorem kbdReadbuf : Statement .kbdReadbuf := of_write rfl rfl
theorem kbdUndef (v : Byte) : Statement (.kbdUndef v) := of_write rfl rfl
theorem prnCmd (v : Byte) : Statement (.prnCmd v) := of_write rfl rfl
theorem dskCmd (v : Byte) : Statement (.dskCmd v) := of_write rfl rfl
theorem tapCmd (v : Byte) : Statement (.tapCmd v) := of_write rfl rfl
theorem dskRepeat (v : Byte) : Statement (.dskRepeat v) := of_write rfl rfl
theorem unkNak (v : Byte) : Statement (.unkNak v) := of_write rfl rfl
theorem reset : Statement .reset := ⟨rfl, .inl (by decide)⟩
theorem key (code : BitVec 16) : Statement (.key code) := ⟨rfl, .inr (hostWord_fields 0b10#2 code).1⟩

end Sys2Proof.Laws.WordShape
end

