-- ==== Sys2Proof/Laws/Step.lean ====
section
/-! SUPPORT. What fetch, exec and step can answer: one inversion lemma each. -/

namespace Sys2Proof.Machine

/-- exec answers a next state for every operation in every state (60_exceptions.md R200), and leaves the mode, the
configuration, the pending inputs and the address port. -/
theorem exec_next (i : Instr) (s : State) :
    ∃ t, exec i s = .next t ∧ t.mode = s.mode ∧ t.cfg = s.cfg ∧ t.inputs = s.inputs ∧ t.addr = s.addr := by
  cases i <;> simp only [exec]
  case kbdReadbuf => unfold execKbdReadbuf; dsimp only; split <;> exact ⟨_, rfl, by simp⟩
  case key code => unfold execKey; split <;> exact ⟨_, rfl, by simp⟩
  all_goals exact ⟨_, rfl, by simp⟩

/-- The operation of an access (30_encoding.md R83, R92). -/
def State.operation (s : State) (x : Access) : Instr :=
  if x.we then decodeWrite (s.target x.addr) x.data else decodeRead (s.target x.addr)

/-- Every access decodes to its operation. -/
theorem State.decode_commandWord (s : State) (x : Access) :
    decodeCommand (s.commandWord x) = .ok (s.operation x) := by
  unfold State.commandWord State.operation
  rw [decodeCommand_pack]
  cases x.we <;> simp

/-- The state in which a CPU access runs: off the pending inputs, its address on the port, no read data yet. -/
def State.presented (s : State) (a : Addr) (rest : List Input) : State := { s.accept rest with addr := a }

/-- Fetching a CPU access. -/
theorem State.fetch_cpu {s : State} {w : TransactionWord} {rest : List Input} (h : s.inputs = .cpu w :: rest) :
    s.fetch = .run (s.operation (Access.ofWord w)) (s.presented (Access.ofWord w).addr rest) := by
  unfold State.fetch
  rw [h]
  simp only [State.issue, decode, State.decode_commandWord]
  rfl

/-- A step on a CPU access is exec of its operation. -/
theorem step_cpu {s : State} {w : TransactionWord} {rest : List Input} (h : s.inputs = .cpu w :: rest) :
    step s = exec (s.operation (Access.ofWord w)) (s.presented (Access.ofWord w).addr rest) := by
  unfold step
  rw [State.fetch_cpu h]

/-- A step on a host word. -/
theorem step_host {s : State} {w : HostWord} {rest : List Input} (h : s.inputs = .host w :: rest) :
    step s = match decodeHost w with
      | .ok i => exec i (s.accept rest)
      | .error r => .refused (.reservedWord r) := by
  unfold step State.fetch
  rw [h]
  simp only [State.issue, decode]
  cases decodeHost w <;> rfl

/-- A step on a mode input. -/
theorem step_mode {s : State} {m : Nat} {rest : List Input} (h : s.inputs = .mode m :: rest) :
    step s = if m < s.cfg.modes.length then .next ((s.accept rest).setMode m) else .refused (.noSuchMode m) := by
  unfold step State.fetch
  rw [h]
  by_cases hm : m < s.cfg.modes.length <;> simp [hm, State.setMode]

theorem step_idle {s : State} (h : s.inputs = []) : step s = .next s := by
  unfold step State.fetch
  rw [h]

/-- Everything a step that answers a next state can have done. -/
theorem step_cases {s t : State} (h : step s = .next t) :
    (s.inputs = [] ∧ t = s) ∨
      (∃ w rest, s.inputs = .cpu w :: rest ∧
        exec (s.operation (Access.ofWord w)) (s.presented (Access.ofWord w).addr rest) = .next t) ∨
      (∃ w rest i, s.inputs = .host w :: rest ∧ decodeHost w = .ok i ∧ exec i (s.accept rest) = .next t) ∨
      (∃ m rest, s.inputs = .mode m :: rest ∧ m < s.cfg.modes.length ∧ t = (s.accept rest).setMode m) := by
  cases hin : s.inputs with
  | nil => rw [step_idle hin] at h; cases h; exact .inl ⟨rfl, rfl⟩
  | cons x rest =>
    cases x with
    | cpu w => rw [step_cpu hin] at h; exact .inr (.inl ⟨w, rest, rfl, h⟩)
    | host w =>
      rw [step_host hin] at h
      split at h
      · next i hi => exact .inr (.inr (.inl ⟨w, rest, i, rfl, hi, h⟩))
      · cases h
    | mode m =>
      rw [step_mode hin] at h
      split at h
      · next hm => cases h; exact .inr (.inr (.inr ⟨m, rest, rfl, hm, rfl⟩))
      · cases h

/-! ### The invariant -/

/-- The invariant looks at no input, port, or history. -/
theorem State.Inv.presented {s : State} (h : s.Inv) (a : Addr) (rest : List Input) : (s.presented a rest).Inv :=
  ⟨h.presence, h.count, h.lastDisk, h.kbdStatus, h.queue, h.mode, h.cfg, h.mem⟩

theorem State.Inv.accept {s : State} (h : s.Inv) (rest : List Input) : (s.accept rest).Inv :=
  ⟨h.presence, h.count, h.lastDisk, h.kbdStatus, h.queue, h.mode, h.cfg, h.mem⟩

/-- An update of memory and of what the invariant does not look at keeps it, given the new memory's canonical form. -/
theorem State.Inv.of_mem {s t : State} (h : s.Inv) (hm : t.mem.wf = true) (hb : t.base = s.base)
    (hp : t.presence = s.presence) (hc : t.count = s.count) (hd : t.lastDisk = s.lastDisk)
    (hk : t.kbdStatus = s.kbdStatus) (hq : t.kbdQueue = s.kbdQueue) (hmo : t.mode = s.mode) (hcf : t.cfg = s.cfg) :
    t.Inv where
  presence a := by rw [hp, State.off, hb]; exact h.presence a
  count := by rw [hc]; exact h.count
  lastDisk := by rw [hd]; exact h.lastDisk
  kbdStatus := by rw [hk]; exact h.kbdStatus
  queue := by rw [hq, hcf]; exact h.queue
  mode := by rw [hmo, hcf]; exact h.mode
  cfg := by rw [hcf]; exact h.cfg
  mem := hm

theorem State.Inv.memWrite {s : State} (h : s.Inv) (a : Addr) (v : Byte) : (s.memWrite a v).Inv :=
  h.of_mem (State.memWrite_wf h.mem a v) (by simp) (by simp) (by simp) (by simp) (by simp) (by simp) (by simp) (by simp)

theorem State.Inv.storeCommand {s : State} (h : s.Inv) (d : Addr) (v : Byte) : (s.storeCommand d v).Inv :=
  h.of_mem (State.storeCommand_wf h.mem d v) (by simp) (by simp) (by simp) (by simp) (by simp) (by simp) (by simp) (by simp)

theorem State.Inv.storeEcho {s : State} (h : s.Inv) (v : Byte) : (s.storeEcho v).Inv :=
  h.of_mem (State.storeEcho_wf h.mem v) (by simp) (by simp) (by simp) (by simp) (by simp) (by simp) (by simp) (by simp)

theorem State.Inv.memWrites {s : State} (h : s.Inv) (ws : List (Addr × Byte)) : (s.memWrites ws).Inv :=
  h.of_mem (State.memWrites_wf h.mem ws) (by simp) (by simp) (by simp) (by simp) (by simp) (by simp) (by simp) (by simp)

theorem State.Inv.media {s : State} (h : s.Inv) (k : MediaKind) (i : Fin 4) (v : Byte) (d : Addr) :
    (s.media k i v d).Inv :=
  h.of_mem (State.media_wf h.mem k i v d) (by simp) (by simp) (by simp) (by simp) (by simp) (by simp) (by simp) (by simp)

theorem State.Inv.ack {s : State} (h : s.Inv) (d : Addr) (v : Byte) : (s.ack d v).Inv := h.memWrite _ _

theorem State.Inv.giveData {s : State} (h : s.Inv) (v : Byte) : (s.giveData v).Inv :=
  ⟨h.presence, h.count, h.lastDisk, h.kbdStatus, h.queue, h.mode, h.cfg, h.mem⟩

theorem State.Inv.logEvent {s : State} (h : s.Inv) (e : LogEvent) : (s.logEvent e).Inv :=
  ⟨h.presence, h.count, h.lastDisk, h.kbdStatus, h.queue, h.mode, h.cfg, h.mem⟩

theorem State.Inv.setKbdStatus {s : State} (h : s.Inv) {v : Byte} (hv : v = 0x00#8 ∨ v = 0x80#8 ∨ v = 0x8C#8) :
    (s.setKbdStatus v).Inv :=
  ⟨h.presence, h.count, h.lastDisk, hv, h.queue, h.mode, h.cfg, h.mem⟩

theorem State.Inv.setCount {s : State} (h : s.Inv) {v : Byte} (hv : v.toNat ≤ 15) : (s.setCount v).Inv :=
  ⟨h.presence, hv, h.lastDisk, h.kbdStatus, h.queue, h.mode, h.cfg, h.mem⟩

theorem State.Inv.setLastDisk {s : State} (h : s.Inv) {v : Byte} (hv : v.toNat ≤ 3) : (s.setLastDisk v).Inv :=
  ⟨h.presence, h.count, hv, h.kbdStatus, h.queue, h.mode, h.cfg, h.mem⟩

theorem State.Inv.setQueue {s : State} (h : s.Inv) {q : List Byte} (hq : q.length ≤ s.cfg.kbdQueueCap) :
    (s.setQueue q).Inv :=
  ⟨h.presence, h.count, h.lastDisk, h.kbdStatus, hq, h.mode, h.cfg, h.mem⟩

/-- The command byte after the store and the slot-0 echo, where it is routed (42_dispatch.md R153, R155). -/
theorem State.memRead_storeCommand_routed {s : State} (hi : s.Inv) {d : Addr} (h : s.routed d = true) (v : Byte) :
    (s.storeCommand d v).memRead d = if d = s.base + 4#16 then ackOf v else v := by
  unfold State.storeCommand
  split
  · exact State.memRead_memWrite_routed (hi.memWrite _ _) (by simpa using h) _
  · exact State.memRead_memWrite_routed hi h _

/-- Relocation flags exactly the window at the target (41_header.md R131, R132). -/
theorem State.relocate_flag {s : State} (h : s.PresenceInSync) (t a : Addr) :
    (s.relocate t).presence.flag a = decide ((a - t).toNat < windowSize) := by
  rw [State.relocate_presence, Presence.flag_setWindow, Presence.flag_clearWindow, h a]
  unfold State.off
  cases decide ((a - s.base).toNat < windowSize) <;> simp

theorem State.Inv.relocate {s : State} (h : s.Inv) (t : Addr) : (s.relocate t).Inv :=
  ⟨fun a => State.relocate_flag h.presence t a, (by simp), h.lastDisk, h.kbdStatus, h.queue, h.mode, h.cfg, h.mem⟩

end Sys2Proof.Machine
end

