-- ==== Sys2Proof/Tests/Slice0.lean ====
section
/-! SUPPORT. Tests of the model against the spec's own words and vectors, and the witnesses of the statements. Expected
results come from spec/: the Encoding lines of the operation rules, the vectors of 95_test_vectors.md and the tables of
30_encoding.md. -/

namespace Sys2Proof.Tests

open Sys2Proof Sys2Proof.Machine

-- One theorem is checked at a time: many at once would ask for more threads than the check's memory limit gives.
set_option Elab.async false

/-- The D29 start state with memory, queue, address port and pending inputs set. In mode 0b0001 the physical number of a
main RAM byte is its address. -/
def launch (mem : Memory) (q : List Byte) (a : Addr) (ins : List Input) : State :=
  { State.reset with mem := mem, kbdQueue := q, addr := a, inputs := ins }

/-- The start state with one CPU access pending, given by its TW. -/
def bus (mem : Memory) (w : TransactionWord) : State := launch mem [] 0#16 [.cpu w]

/-- What a next state shows. -/
def after {α : Type} (o : Host.Outcome State Fault Refusal) (f : State → α) : Option α :=
  match o with
  | .next t => some (f t)
  | .fault _ => none
  | .refused _ => none

theorem launch_inv {mem : Memory} {q : List Byte} {a : Addr} {ins : List Input} (hm : mem.wf = true) (hq : q.length ≤ 8) :
    (launch mem q a ins).Inv :=
  ⟨fun x => Presence.flag_window _ x, Nat.le_refl 15, Nat.zero_le 3, .inl rfl, hq, (by decide : (1 : Nat) < 16),
    Config.reference_wf, hm⟩

/-! ### WellFormed: an ill-formed term for each check -/

theorem test_wf_hdrUnimpl_low : Instr.wf (.hdrUnimpl 0x03#8) = false := by decide
theorem test_wf_hdrUnimpl_high : Instr.wf (.hdrUnimpl 0x80#8) = false := by decide
theorem test_wf_hdrHigh : Instr.wf (.hdrHigh 0x7F#8) = false := by decide
theorem test_wf_dcbCmdRd_keyboard : Instr.wf (.dcbCmdRd .kbd) = false := by decide
theorem test_wf_dcbCmdIgnore : Instr.wf (.dcbCmdIgnore .prn 0x01#8) = false ∧ Instr.wf (.dcbCmdIgnore .unk 0x7F#8) = false := by
  decide
theorem test_wf_kbdSync : Instr.wf (.kbdSync 0x00#8) = false ∧ Instr.wf (.kbdSync 0x03#8) = false := by decide
theorem test_wf_kbdUndef : Instr.wf (.kbdUndef 0x04#8) = false ∧ Instr.wf (.kbdUndef 0x80#8) = false := by decide
theorem test_wf_commands_zero :
    Instr.wf (.prnCmd 0x00#8) = false ∧ Instr.wf (.dskCmd 0x00#8) = false ∧ Instr.wf (.tapCmd 0x00#8) = false ∧
      Instr.wf (.dskRepeat 0x00#8) = false ∧ Instr.wf (.unkNak 0x00#8) = false := by decide
theorem test_wf_commands_status :
    Instr.wf (.prnCmd 0x80#8) = false ∧ Instr.wf (.dskCmd 0x80#8) = false ∧ Instr.wf (.tapCmd 0x80#8) = false ∧
      Instr.wf (.dskRepeat 0x80#8) = false ∧ Instr.wf (.unkNak 0xFF#8) = false := by decide

/-! ### Decoding: every constructor from a word written out of its Encoding line -/

/-- R110, R111. -/
theorem test_decode_plain :
    decodeCommand 0x0000#16 = .ok .plainRd ∧ decodeCommand 0x8041#16 = .ok (.plainWr 0x41#8) := by decide
/-- R120 to R124. -/
theorem test_decode_header_reads_and_sync :
    decodeCommand 0x1000#16 = .ok (.hdrRd .command) ∧ decodeCommand 0x2000#16 = .ok (.hdrRd .target) ∧
      decodeCommand 0x3000#16 = .ok (.hdrRd .count) ∧ decodeCommand 0x9000#16 = .ok .hdrNop ∧
      decodeCommand 0x9001#16 = .ok .hdrSyncCpu ∧ decodeCommand 0x9002#16 = .ok .hdrSyncPctl := by decide
/-- R125 to R129. -/
theorem test_decode_header_writes :
    decodeCommand 0x9003#16 = .ok .hdrRelocate ∧ decodeCommand 0x9004#16 = .ok (.hdrUnimpl 0x04#8) ∧
      decodeCommand 0x907F#16 = .ok (.hdrUnimpl 0x7F#8) ∧ decodeCommand 0x9080#16 = .ok (.hdrHigh 0x80#8) ∧
      decodeCommand 0xA0AB#16 = .ok (.hdrParamWr 0xAB#8) ∧ decodeCommand 0xB0FF#16 = .ok (.hdrCountWr 0xFF#8) := by decide
/-- R150 to R152, R156, R157. -/
theorem test_decode_dcb :
    decodeCommand 0x5000#16 = .ok .dcbParRd ∧ decodeCommand 0x4300#16 = .ok (.dcbCmdRd .dsk) ∧
      decodeCommand 0xD070#16 = .ok (.dcbParWr 0x70#8) ∧ decodeCommand 0xC600#16 = .ok (.dcbCmdIgnore .unk 0x00#8) ∧
      decodeCommand 0xC281#16 = .ok (.dcbCmdIgnore .prn 0x81#8) ∧ decodeCommand 0xC67F#16 = .ok (.unkNak 0x7F#8) := by decide
/-- R170 to R174. -/
theorem test_decode_keyboard :
    decodeCommand 0x4100#16 = .ok .kbdStatusRd ∧ decodeCommand 0xC101#16 = .ok (.kbdSync 0x01#8) ∧
      decodeCommand 0xC102#16 = .ok (.kbdSync 0x02#8) ∧ decodeCommand 0xC103#16 = .ok .kbdProbe ∧
      decodeCommand 0xC104#16 = .ok .kbdReadbuf ∧ decodeCommand 0xC105#16 = .ok (.kbdUndef 0x05#8) := by decide
/-- R178, R180, R181, R183. -/
theorem test_decode_devices :
    decodeCommand 0xC205#16 = .ok (.prnCmd 0x05#8) ∧ decodeCommand 0xC302#16 = .ok (.dskCmd 0x02#8) ∧
      decodeCommand 0xC410#16 = .ok (.tapCmd 0x10#8) ∧ decodeCommand 0xC502#16 = .ok (.dskRepeat 0x02#8) := by decide
/-- R230, R176 (K13), and R93: the CODE of a RESET is ignored. -/
theorem test_decode_host :
    decodeHost 0x10000#18 = .ok .reset ∧ decodeHost 0x1FFFF#18 = .ok .reset ∧ decodeHost 0x20141#18 = .ok (.key 0x0141#16) := by
  decide
/-- R93. -/
theorem test_decode_reserved :
    decodeCommand 0x6000#16 = .error .reservedRegion ∧ decodeCommand 0xF012#16 = .error .reservedRegion ∧
      decodeCommand 0x0100#16 = .error .strayDevice ∧ decodeCommand 0x4000#16 = .error .reservedDevice ∧
      decodeCommand 0xC701#16 = .error .reservedDevice ∧ decodeCommand 0x0001#16 = .error .readWithData ∧
      decodeHost 0x00000#18 = .error .reservedHostOp ∧ decodeHost 0x30000#18 = .error .reservedHostOp := by decide
/-- R80: `W 0xFEC0, 0x01` is 0x1FEC001 and `R 0xFEC0` is 0x0FEC000; E19: the D field of a read is ignored. -/
theorem test_transaction_words :
    Access.ofWord 0x1FEC001#25 = { we := true, addr := 0xFEC0#16, data := 0x01#8 } ∧
      Access.ofWord 0x0FEC055#25 = { we := false, addr := 0xFEC0#16, data := 0x00#8 } ∧
      Access.toWord { we := true, addr := 0x7000#16, data := 0x41#8 } = 0x1700041#25 := by decide

/-- E1 to E11: the command words of reads in the start state. -/
theorem test_decode_of_reads :
    ([0x7000#16, 0xFFFF#16, 0xFEC0#16, 0xFEC2#16, 0xFEC3#16, 0xFEC4#16, 0xFEC5#16, 0xFED8#16, 0xFED9#16, 0xFFEA#16,
        0xFFFE#16].map fun a => State.reset.commandWord { we := false, addr := a, data := 0x00#8 }) =
      [0x0000#16, 0x0000#16, 0x1000#16, 0x2000#16, 0x3000#16, 0x4600#16, 0x5000#16, 0x5000#16, 0x4600#16, 0x4600#16,
        0x5000#16] := by decide +kernel
/-- E17, E18: flagged but not live, by the count and by the mode. -/
theorem test_decode_not_live :
    ({ State.reset with count := 2#8 }).commandWord { we := true, addr := 0xFEEE#16, data := 0x01#8 } = 0x8001#16 ∧
      ({ State.reset with mode := 13 }).commandWord { we := true, addr := 0xFEC0#16, data := 0x01#8 } = 0x8001#16 := by
  decide +kernel

/-! ### Fetch: the first step of a placed word runs its instruction -/

/-- The instruction that the step after withFetchWord runs is the one decodeTableWord reads, for the first word of a row. -/
def placed (r : OpcodeRow) : Bool :=
  match (State.reset.withFetchWord 16 r.pat.toNat).fetch, decodeTableWord 16 r.pat.toNat with
  | .run i _, some j => i = j && i.mnemonic = r.name
  | _, _ => false

theorem test_placed_header : ((opcodeRowsPlain ++ opcodeRowsHeader).all placed) = true := by decide +kernel
theorem test_placed_dcb : (opcodeRowsDcb.all placed) = true := by decide +kernel
theorem test_placed_keyboard : (opcodeRowsKeyboard.all placed) = true := by decide +kernel
theorem test_placed_printerDisk : (opcodeRowsPrinterDisk.all placed) = true := by decide +kernel
theorem test_placed_other : (opcodeRowsOther.all placed) = true := by decide +kernel
theorem test_placed_host :
    (decodeTableWord 18 0x10000 = some .reset ∧ decodeTableWord 24 0x20041 = some (.key 0x0041#16)) ∧
      (State.reset.withFetchWord 24 0x20041).inputs = [.host 0x20041#18] := by decide +kernel

/-! ### One step each, from the vectors of 95_test_vectors.md -/

/-- P1, P2. -/
theorem test_plain_write : after (step (bus [] 0x1700041#25)) (fun t => t.mem) = some [(0x7000, 0x41#8)] := by decide +kernel
theorem test_plain_read : after (step (bus [(0x7000, 0x41#8)] 0x0700000#25)) (fun t => t.readData) = some (some 0x41#8) := by
  decide +kernel
/-- P4: in mode 0b1101 the write goes into the Sink and main RAM stays. -/
theorem test_write_to_sink :
    after (step { bus [] 0x1FEC001#25 with mode := 13 }) (fun t => (t.mem.get 0xFEC0, t.memRead 0xFEC0#16, t.base)) =
      some (0x00#8, 0x00#8, 0xFEC0#16) := by decide +kernel
/-- P7: with count 0 the command byte of a keyboard reads as memory. -/
theorem test_read_not_live_keyboard :
    after (step { bus [(0xFED4, 0x01#8)] 0x0FEC400#25 with count := 0#8, kbdStatus := 0x80#8 }) (fun t => t.readData) =
      some (some 0x00#8) := by decide +kernel
/-- H15. -/
theorem test_header_read :
    after (step { bus [(0xFEC3, 0x82#8)] 0x0FEC300#25 with count := 2#8 }) (fun t => t.readData) = some (some 0x82#8) := by
  decide +kernel
/-- H2, on a byte that held 0x55. -/
theorem test_header_nop : after (step (bus [(0xFEC0, 0x55#8)] 0x1FEC000#25)) (fun t => t.mem) = some [] := by decide +kernel
/-- S9. -/
theorem test_sync_cpu : after (step (bus [] 0x1FEC001#25)) (fun t => t.mem) = some [(0xFEC0, 0x81#8)] := by decide +kernel
/-- H4. -/
theorem test_sync_pctl :
    after (step { bus [] 0x1FEC002#25 with kbdStatus := 0x8C#8 }) (fun t => (t.mem, t.kbdStatus)) =
      some ([(0xFEC0, 0x82#8)], 0x8C#8) := by decide +kernel
/-- H17. -/
theorem test_relocate :
    after (step (bus [(0xFEC2, 0x40#8)] 0x1FEC003#25))
      (fun t => (t.base, t.count, t.mem, [t.presence.flag 0x4000#16, t.presence.flag 0x413E#16, t.presence.flag 0x413F#16,
        t.presence.flag 0xFEC0#16])) =
      some (0x4000#16, 15#8, [(0xFEC0, 0x83#8), (0xFEC2, 0x40#8)], [true, true, false, false]) := by decide +kernel
/-- H21: a window that wraps. -/
theorem test_relocate_wraps :
    after (step (bus [(0xFEC1, 0xF0#8), (0xFEC2, 0xFF#8)] 0x1FEC003#25))
      (fun t => [t.presence.flag 0xFFEF#16, t.presence.flag 0xFFFF#16, t.presence.flag 0x0000#16, t.presence.flag 0x012E#16,
        t.presence.flag 0x012F#16]) = some [false, true, true, true, false] := by decide +kernel
/-- H6. -/
theorem test_header_unimplemented :
    after (step (bus [] 0x1FEC07F#25)) (fun t => (t.mem, t.events)) =
      some ([(0xFEC0, 0x7F#8)], [.unimplementedHeaderCommand 0x7F#8]) := by decide +kernel
/-- H8: no relocation, no log. -/
theorem test_header_high :
    after (step (bus [(0xFEC2, 0x40#8)] 0x1FEC083#25)) (fun t => (t.memRead 0xFEC0#16, t.base, t.events)) =
      some (0x83#8, 0xFEC0#16, []) := by decide +kernel
/-- H9. -/
theorem test_header_param : after (step (bus [] 0x1FEC134#25)) (fun t => t.mem) = some [(0xFEC1, 0x34#8)] := by decide +kernel
/-- H10, H13. -/
theorem test_count_write :
    after (step (bus [] 0x1FEC302#25)) (fun t => (t.mem, t.count, t.isLive 0xFEED#16, t.isLive 0xFEEE#16)) =
      some ([(0xFEC3, 0x82#8)], 2#8, true, false) := by decide +kernel
theorem test_count_write_capped :
    after (step (bus [] 0x1FEC310#25)) (fun t => (t.mem, t.count)) = some ([(0xFEC3, 0x90#8)], 15#8) := by decide +kernel
/-- D1 to D4. -/
theorem test_dcb_param_write :
    after (step (bus [] 0x1FED401#25)) (fun t => (t.mem, t.target 0xFEC4#16)) =
      some ([(0xFED4, 0x01#8)], .dcbCmd .kbd) := by decide +kernel
theorem test_dcb_param_read :
    after (step (bus [(0xFECD, 0x55#8)] 0x0FECD00#25)) (fun t => t.readData) = some (some 0x55#8) := by decide +kernel
/-- R151: after a printer command 0x05 at slot 1, `R 0xFED9` returns 0x85. -/
theorem test_dcb_command_read :
    after (step (bus [(0xFED9, 0x85#8), (0xFEE9, 0x02#8)] 0x0FED900#25)) (fun t => t.readData) = some (some 0x85#8) := by
  decide +kernel
/-- D5, D7. -/
theorem test_ignore_slot_one : after (step (bus [(0xFED9, 0x9B#8)] 0x1FED900#25)) (fun t => t.mem) = some [] := by decide +kernel
theorem test_ignore_slot_zero : after (step (bus [] 0x1FEC400#25)) (fun t => t.mem) = some [(0xFEC4, 0x80#8)] := by decide +kernel
/-- S8 and D11. -/
theorem test_unknown_nak :
    after (step (bus [(0xFECD, 0x03#8), (0xFED4, 0x03#8)] 0x1FEC401#25)) (fun t => (t.memRead 0xFEC4#16, t.events)) =
      some (0x9B#8, [.unknownDevice 0x033#12]) := by decide +kernel
theorem test_unknown_high_identity :
    after (step (bus [(0xFEE2, 0x10#8), (0xFEE9, 0x01#8)] 0x1FED901#25)) (fun t => (t.memRead 0xFED9#16, t.events)) =
      some (0x9B#8, [.unknownDevice 0x101#12]) := by decide +kernel
/-- K3, second access. -/
theorem test_keyboard_status_read :
    after (step { bus [(0xFED9, 0x9B#8), (0xFEE9, 0x01#8)] 0x0FED900#25 with kbdStatus := 0x80#8 }) (fun t => t.readData) =
      some (some 0x80#8) := by decide +kernel
/-- D12: the high nibble of byte 16 is ignored. -/
theorem test_keyboard_sync :
    after (step (bus [(0xFEE9, 0xF1#8)] 0x1FED901#25)) (fun t => (t.memRead 0xFED9#16, t.kbdStatus)) =
      some (0x80#8, 0x80#8) := by decide +kernel
/-- K3, first access. -/
theorem test_keyboard_probe :
    after (step (bus [(0xFEE9, 0x01#8)] 0x1FED903#25)) (fun t => (t.memRead 0xFED9#16, t.kbdStatus)) =
      some (0x9B#8, 0x80#8) := by decide +kernel
/-- K5. -/
theorem test_keyboard_undefined :
    after (step (bus [(0xFED4, 0x01#8)] 0x1FEC405#25)) (fun t => (t.memRead 0xFEC4#16, t.kbdStatus)) =
      some (0x85#8, 0x00#8) := by decide +kernel
/-- K9: the fill wraps at the top of the address space. -/
theorem test_keyboard_read_wraps :
    after (step (launch [(0xFEDA, 0xFE#8), (0xFEDB, 0xFF#8), (0xFEDC, 0x03#8), (0xFEE9, 0x01#8)] [0x01#8, 0x02#8, 0x03#8]
        0#16 [.cpu 0x1FED904#25]))
      (fun t => ([t.memRead 0xFFFE#16, t.memRead 0xFFFF#16, t.memRead 0x0000#16, t.memRead 0xFED9#16], t.kbdStatus, t.kbdQueue)) =
      some ([0x01#8, 0x02#8, 0x03#8, 0x00#8], 0x80#8, []) := by decide +kernel
/-- K8: a short read in slot 0. -/
theorem test_keyboard_read_short :
    after (step (launch [(0xFEC6, 0x70#8), (0xFEC7, 0x03#8), (0xFED4, 0x01#8)] [0x41#8] 0#16 [.cpu 0x1FEC404#25]))
      (fun t => ([t.memRead 0x7000#16, t.memRead 0x7001#16, t.memRead 0xFEC4#16], t.kbdStatus, t.kbdQueue)) =
      some ([0x41#8, 0x00#8, 0x84#8], 0x8C#8, []) := by decide +kernel
/-- M1. -/
theorem test_printer :
    after (step (bus [(0xFEE9, 0x02#8)] 0x1FED905#25)) (fun t => (t.memRead 0xFED9#16, t.mediaRequests)) =
      some (0x85#8, []) := by decide +kernel
/-- M4: the command word, and what the command does (the media subsystem is free, so memory is left out). -/
theorem test_disk_word :
    (bus [(0xFEFE, 0x05#8)] 0x0#25).commandWord { we := true, addr := 0xFEEE#16, data := 0x02#8 } = 0xC302#16 := by
  decide +kernel
theorem test_disk :
    after (exec (.dskCmd 0x02#8) (launch [(0xFEFE, 0x05#8)] [] 0xFEEE#16 [])) (fun t => (t.lastDisk, t.mediaRequests)) =
      some (1#8, [{ kind := .disk, index := 1, cmd := 0x02#8, dcb := 0xFEEE#16 }]) := by
  simp only [after, exec, execDskCmd, State.ack_lastDisk, State.ack_mediaRequests, State.media_lastDisk,
    State.media_mediaRequests]
  decide +kernel
/-- M8. -/
theorem test_tape :
    after (exec (.tapCmd 0x03#8) (launch [(0xFECD, 0x01#8), (0xFED4, 0x09#8)] [] 0xFEC4#16 []))
        (fun t => (t.lastDisk, t.mediaRequests)) =
      some (0#8, [{ kind := .tape, index := 3, cmd := 0x03#8, dcb := 0xFEC4#16 }]) := by
  simp only [after, exec, execTapCmd, State.ack_lastDisk, State.ack_mediaRequests, State.media_lastDisk,
    State.media_mediaRequests]
  decide +kernel
/-- M6. -/
theorem test_repeat :
    after (exec (.dskRepeat 0x02#8) { launch [(0xFF0C, 0x05#8), (0xFF13, 0x02#8)] [] 0xFF03#16 [] with lastDisk := 1#8 })
        (fun t => (t.lastDisk, t.mediaRequests)) =
      some (1#8, [{ kind := .disk, index := 1, cmd := 0x02#8, dcb := 0xFF03#16 }]) := by
  simp only [after, exec, execDskRepeat, State.ack_lastDisk, State.ack_mediaRequests, State.media_lastDisk,
    State.media_mediaRequests]
  decide +kernel
/-- The table of 95_test_vectors.md section 2.6: the device of identity bytes (offset 9, offset 16) of slot 0. -/
theorem test_identity_table :
    ([(0x00#8, 0x00#8), (0x00#8, 0x01#8), (0x00#8, 0x02#8), (0x00#8, 0x03#8), (0x00#8, 0x04#8), (0x00#8, 0x07#8),
        (0x00#8, 0x08#8), (0x00#8, 0x09#8), (0x01#8, 0x08#8), (0x01#8, 0x09#8), (0x05#8, 0x02#8), (0x00#8, 0xF5#8),
        (0x10#8, 0x01#8)].map fun p =>
      route ({ State.reset with mem := (Memory.set (Memory.set [] 0xFECD p.1) 0xFED4 p.2) }.idAt 0xFEC4#16)) =
      [.unknown, .keyboard, .printer, .unknown, .disk 0, .disk 3, .tape 0, .tape 2, .tape 1, .tape 3, .repeatDisk, .disk 1,
        .unknown] := by decide +kernel
/-- Z1. -/
theorem test_reset :
    after (step { launch [(0x4000, 0x83#8)] [0x41#8] 0#16 [.host 0x10000#18] with
        base := 0x4000#16, presence := Presence.window 0x4000#16, count := 2#8, kbdStatus := 0x8C#8, lastDisk := 3#8 })
      (fun t => ([t.base.toNat, t.count.toNat, t.kbdStatus.toNat, t.lastDisk.toNat], t.kbdQueue,
        [t.presence.flag 0x4000#16, t.presence.flag 0xFFFE#16], t.mem)) =
      some ([0xFEC0, 15, 0, 0], [0x41#8], [false, true], [(0x4000, 0x83#8)]) := by decide +kernel
/-- K13, K14. -/
theorem test_key : after (step (launch [] [] 0#16 [.host 0x20141#18])) (fun t => t.kbdQueue) = some [0x41#8] := by decide +kernel
theorem test_key_full :
    after (step (launch [] [1#8, 2#8, 3#8, 4#8, 5#8, 6#8, 7#8, 8#8] 0#16 [.host 0x20009#18])) (fun t => t.kbdQueue.length) =
      some 8 := by decide +kernel
/-- R97 against the transaction words of 95_test_vectors.md: RELOC as in Program 3, DCBID and KREAD as in Program 2. -/
theorem test_pseudo :
    (Pseudo.reloc 0x4000#16).inputs 0xFEC0#16 = [.cpu 0x1FEC100#25, .cpu 0x1FEC240#25, .cpu 0x1FEC003#25] ∧
      (Pseudo.dcbid 1 0x001#12).inputs 0xFEC0#16 = [.cpu 0x1FEE200#25, .cpu 0x1FEE901#25] ∧
      (Pseudo.kread 1 0x7000#16 0x0003#16).inputs 0xFEC0#16 =
        [.cpu 0x1FEDA00#25, .cpu 0x1FEDB70#25, .cpu 0x1FEDC03#25, .cpu 0x1FEDD00#25, .cpu 0x1FED904#25] ∧
      (Pseudo.setcnt 0x02#8).inputs 0xFEC0#16 = [.cpu 0x1FEC302#25] ∧ Line.input .reset = .host 0x10000#18 ∧
      Line.input (.key 0x0041#16) = .host 0x20041#18 := by decide
/-- R93: a reserved host word is refused, and a mode outside the table (log 12). -/
theorem test_refusals :
    (∃ r, step (launch [] [] 0#16 [.host 0x00000#18]) = .refused r) ∧
      (∃ r, step (launch [] [] 0#16 [.mode 16]) = .refused r) := by
  refine ⟨⟨.reservedWord .reservedHostOp, ?_⟩, ⟨.noSuchMode 16, ?_⟩⟩
  · rw [step_host (s := launch [] [] 0#16 [.host 0x00000#18]) rfl,
      show decodeHost 0x00000#18 = .error .reservedHostOp by decide]
  · rw [step_mode (s := launch [] [] 0#16 [.mode 16]) rfl, if_neg (by decide)]

/-! ### Witnesses: a state that meets the hypotheses of each statement that has some -/

/-- The start state with one identity byte set, an access on the port and keys queued. -/
theorem at_inv (k : Nat) (v : Byte) (hv : v ≠ 0x00#8) (q : List Byte) (hq : q.length ≤ 8) (a : Addr) (ins : List Input) :
    (launch [(k, v)] q a ins).Inv := launch_inv (by simp [Memory.wf, Memory.wfAbove, Memory.unlisted, hv]) hq

/-- DecodeOfEncodeIsTheOperation: operands at the ends of their ranges. -/
theorem witness_wellFormed :
    ([.hdrUnimpl 0x04#8, .hdrUnimpl 0x7F#8, .hdrHigh 0x80#8, .hdrHigh 0xFF#8, .dcbCmdIgnore .kbd 0x00#8,
        .dcbCmdIgnore .unk 0x80#8, .kbdSync 0x01#8, .kbdSync 0x02#8, .kbdUndef 0x05#8, .kbdUndef 0x7F#8, .prnCmd 0x01#8,
        .dskCmd 0x7F#8, .tapCmd 0x01#8, .dskRepeat 0x7F#8, .unkNak 0x01#8, .dcbCmdRd .prn, .dcbCmdRd .unk,
        .key 0xFFFF#16].all Instr.wf) = true := by decide

/-- EncodeOfDecodeIsTheWord, EachCommandWordMatchesItsOneRow. -/
theorem witness_decodes : decodeCommand 0xC67F#16 = .ok (.unkNak 0x7F#8) := by decide

/-- ReservedCommandWordsAreRefused: each alternative, at its least and greatest value. -/
theorem witness_reserved :
    (0x6000#16).extractLsb' 12 3 = 6#3 ∧ (0x7000#16).extractLsb' 12 3 = 7#3 ∧
      ((0x0100#16).extractLsb' 8 4 ≠ 0#4 ∧ (0x0100#16).extractLsb' 12 3 ≠ 4#3) ∧
      ((0xDF00#16).extractLsb' 8 4 ≠ 0#4 ∧ (0xDF00#16).extractLsb' 12 3 ≠ 4#3) ∧
      ((0x4000#16).extractLsb' 12 3 = 4#3 ∧ (0x4000#16).extractLsb' 8 4 = 0#4) ∧
      ((0x4700#16).extractLsb' 12 3 = 4#3 ∧ 7 ≤ ((0x4700#16).extractLsb' 8 4).toNat) ∧
      ((0x4F00#16).extractLsb' 12 3 = 4#3 ∧ 7 ≤ ((0x4F00#16).extractLsb' 8 4).toNat) ∧
      ((0x0001#16).getLsbD 15 = false ∧ (0x0001#16).extractLsb' 0 8 ≠ 0x00#8) ∧
      ((0x50FF#16).getLsbD 15 = false ∧ (0x50FF#16).extractLsb' 0 8 ≠ 0x00#8) := by decide

/-- StepRunsTheDecodedOperation: a CPU access and a host word. -/
theorem witness_stepRuns :
    (bus [] 0x1FEC001#25).inputs = .cpu 0x1FEC001#25 :: [] ∧
      decodeCommand ((bus [] 0x1FEC001#25).commandWord (Access.ofWord 0x1FEC001#25)) = .ok .hdrSyncCpu ∧
      (launch [] [] 0#16 [.host 0x10000#18]).inputs = .host 0x10000#18 :: [] ∧ decodeHost 0x10000#18 = .ok .reset := by
  decide +kernel

/-- EachAccessRunsTheRowOfItsTarget: a pending access of each target, in the start state with a device of each class in
slots 0 to 5 (slot 0 unknown). -/
theorem witness_each_access :
    let m : Memory := [(0xFEE9, 0x01#8), (0xFEFE, 0x02#8), (0xFF13, 0x04#8), (0xFF28, 0x08#8), (0xFF36, 0x05#8), (0xFF3D, 0x02#8)]
    let x : Access := { we := true, addr := 0xFED9#16, data := 0x04#8 }
    (launch m [] 0#16 [.cpu x.toWord]).inputs = .cpu x.toWord :: [] ∧
      ([0xFEBF#16, 0xFEC0#16, 0xFEC1#16, 0xFEC2#16, 0xFEC3#16, 0xFEC4#16, 0xFEC5#16, 0xFED9#16, 0xFEEE#16, 0xFF03#16,
          0xFF18#16, 0xFF2D#16, 0xFFFE#16, 0xFFFF#16].map (launch m [] 0#16 [.cpu x.toWord]).target) =
        [.plain, .hdr .command, .hdr .target, .hdr .target, .hdr .count, .dcbCmd .unk, .dcbPar, .dcbCmd .kbd, .dcbCmd .prn,
          .dcbCmd .dsk, .dcbCmd .tap, .dcbCmd .rpt, .dcbPar, .plain] := by decide +kernel

/-- ModeInputsAndIdleSteps: the last mode of the reference table, and no input. -/
theorem witness_mode :
    (launch [] [] 0#16 [.mode 15]).inputs = .mode 15 :: [] ∧ 15 < (launch [] [] 0#16 [.mode 15]).cfg.modes.length ∧
      State.reset.inputs = [] := by decide +kernel

/-- EveryTransactionCompletes: a pending access. The steps that refuse are those of test_refusals. -/
theorem witness_transaction : (bus [] 0x0700000#25).inputs = .cpu 0x0700000#25 :: [] := rfl

/-- EveryTransactionCompletes: a reserved host word with OP 0b11 and the first mode outside the table are refused. -/
theorem witness_refused :
    step (launch [] [] 0#16 [.host 0x3FFFF#18]) = .refused (.reservedWord .reservedHostOp) ∧
      (0x3FFFF#18).extractLsb' 16 2 = 0b11#2 ∧
      step (launch [] [] 0#16 [.mode 16]) = .refused (.noSuchMode 16) := by
  refine ⟨?_, by decide, ?_⟩
  · rw [step_host (s := launch [] [] 0#16 [.host 0x3FFFF#18]) rfl,
      show decodeHost 0x3FFFF#18 = .error .reservedHostOp by decide]
  · rw [step_mode (s := launch [] [] 0#16 [.mode 16]) rfl, if_neg (by decide)]

/-- A step that answers a next state: InputsAreServedOneAtATimeInOrder, NoStepChangesRom, StepKeepsTheInvariant,
OutputsAreNeverReadBack. -/
theorem witness_next :
    ∃ t, (bus [] 0x1FEC001#25).Inv ∧ step (bus [] 0x1FEC001#25) = .next t ∧ (⟨.osROM, 0⟩ : Handle).region.kind = .rom :=
  ⟨_, launch_inv rfl (by decide), (step_cpu (s := bus [] 0x1FEC001#25) rfl).trans
    (by rw [show (bus [] 0x1FEC001#25).operation (Access.ofWord 0x1FEC001#25) = .hdrSyncCpu by decide +kernel]; rfl), rfl⟩

/-- OutputsAreNeverReadBack: two states that differ in what they have put out. -/
theorem witness_outputs :
    ({ bus [] 0x1FEC001#25 with events := [.unimplementedHeaderCommand 0x05#8], readData := some 0x01#8 }).withoutOutputs =
      (bus [] 0x1FEC001#25).withoutOutputs ∧
    ({ bus [] 0x1FEC001#25 with events := [.unimplementedHeaderCommand 0x05#8], readData := some 0x01#8 }).events ≠
      (bus [] 0x1FEC001#25).events := ⟨rfl, by decide⟩

/-- TargetsFollowTheWindowGeometry, each clause: the header bytes, the first and the last slot and their first and last
bytes, the byte after the window, and a band that is not routed. -/
theorem witness_geometry :
    State.reset.Inv ∧ State.reset.base = 0xFEC0#16 ∧ State.reset.count.toNat = 15 ∧
      ([0xFEC0#16, 0xFEC1#16, 0xFEC2#16, 0xFEC3#16, 0xFEC4#16, 0xFFEA#16, 0xFEC5#16, 0xFED8#16, 0xFFEB#16, 0xFFFE#16].all
        State.reset.routed) = true ∧
      0xFEC4#16 = State.reset.base + BitVec.ofNat 16 (4 + 21 * 0) ∧ 0xFFEA#16 = State.reset.base + BitVec.ofNat 16 (4 + 21 * 14) ∧
      0xFFFE#16 = State.reset.base + BitVec.ofNat 16 (4 + 21 * 14) + BitVec.ofNat 16 20 ∧
      4 + 21 * State.reset.count.toNat ≤ (0xFFFF#16 - State.reset.base).toNat ∧
      ({ State.reset with mode := 13 }).routed 0xFEC0#16 = false :=
  ⟨launch_inv (mem := []) (q := []) (a := 0#16) (ins := []) rfl (by decide), by decide +kernel⟩

/-- A legal configuration with a page whose write view is ROM (R54). -/
def romConfig : Config :=
  let r := (referenceMode 3).read
  { Config.reference with modes := [ModeMap.ofMaps r (r.set 1 ⟨.expRAM, 1⟩)] }

theorem romConfig_wf : romConfig.wf = true := by decide +kernel

/-- R52: any frame of a region can be shown, and the CPU's main RAM bytes are numbered by their addresses. -/
theorem test_handle_frames :
    (⟨.expRAM, 100000⟩ : Handle).offset 0x2001#16 = 100000 * 0x2000 + 1 ∧
      (⟨.expRAM, 100000⟩ : Handle).phys 0x2001#16 ≠ (⟨.expRAM, 0⟩ : Handle).phys 0x2001#16 ∧
      (mainRamAt (page 0xFEC4#16)).phys 0xFEC4#16 = 0xFEC4 := by decide +kernel

/-- MemWriteStoresOneByte: under the invariant, a write view that is a Sink, in the last mode. -/
theorem witness_discarded_sink :
    let s : State := { State.reset with mode := 15 }
    s.Inv ∧ (s.writeHandle 0xFEC0#16).region.kind = .sink ∧ 15 < s.cfg.modes.length :=
  ⟨⟨fun x => Presence.flag_window _ x, by decide, by decide, .inl rfl, by decide, (by decide : (15 : Nat) < 16),
      Config.reference_wf, rfl⟩, by decide +kernel⟩
/-- MemWriteStoresOneByte: under the invariant, a write view that is ROM. -/
theorem witness_discarded_rom :
    let s : State := { State.reset with cfg := romConfig, mode := 0 }
    s.Inv ∧ (s.writeHandle 0x1000#16).region.kind = .rom ∧ 0 < s.cfg.modes.length :=
  ⟨⟨fun x => Presence.flag_window _ x, by decide, by decide, .inl rfl, by decide, (by decide : (0 : Nat) < 1),
      romConfig_wf, rfl⟩, by decide +kernel⟩

/-- MemWriteStoresOneByte, SingleStoreWrites: an address that writes RAM, and one that writes ROM. -/
theorem witness_memWrite :
    State.reset.mem.wf = true ∧ (State.reset.writeHandle 0x1000#16).region.kind ≠ .rom ∧
      (({ State.reset with cfg := romConfig, mode := 0 }).writeHandle 0x1000#16).region.kind = .rom := by decide +kernel

/-- SingleStoreWrites: an operation of each form. -/
theorem witness_singleStore :
    (∃ v, Instr.plainWr 0xFF#8 = .plainWr v) ∧ (Instr.hdrNop = .hdrNop ∧ (0x00#8 : Byte) = 0x00#8) ∧
      (∃ v, Instr.hdrHigh 0x80#8 = .hdrHigh v) ∧ (∃ v, Instr.hdrParamWr 0xFF#8 = .hdrParamWr v) ∧
      (∃ v, Instr.dcbParWr 0xFF#8 = .dcbParWr v) :=
  ⟨⟨_, rfl⟩, ⟨rfl, rfl⟩, ⟨_, rfl⟩, ⟨_, rfl⟩, ⟨_, rfl⟩⟩

/-- ReadsReturnAByteAndChangeNothing: an operation of each form. -/
theorem witness_reads :
    Instr.plainRd = .plainRd ∧ Instr.dcbParRd = .dcbParRd ∧ (∃ h, Instr.hdrRd .count = .hdrRd h) ∧
      (∃ dev, Instr.dcbCmdRd .unk = .dcbCmdRd dev) := ⟨rfl, rfl, ⟨_, rfl⟩, ⟨_, rfl⟩⟩

/-- RoutedWritesReadBack: two routed addresses, the first and the last. -/
theorem witness_routed :
    State.reset.Inv ∧ State.reset.routed 0x0000#16 = true ∧ State.reset.routed 0xFFFF#16 = true ∧ 0xFFFF#16 ≠ 0x0000#16 :=
  ⟨launch_inv (mem := []) (q := []) (a := 0#16) (ins := []) rfl (by decide), by decide +kernel⟩

/-- LivenessUnderTheInvariant, EveryViewShowsAnExistingByte, RoutedBandsAreMainRam, RelocationIsIdempotent. -/
theorem witness_inv : State.reset.Inv := launch_inv (mem := []) (q := []) (a := 0#16) (ins := []) rfl (by decide)

/-- ReferenceBandRules: the first and the last mode. -/
theorem witness_modes : (0 : Nat) < 16 ∧ (15 : Nat) < 16 := by decide

/-- ResetEstablishesTheInvariant: a state whose block registers are out of range and whose environment is legal. -/
theorem witness_reset :
    let s : State := { State.reset with base := 0x1234#16, count := 0xFF#8, lastDisk := 0xFF#8, kbdStatus := 0x55#8, mode := 15 }
    s.kbdQueue.length ≤ s.cfg.kbdQueueCap ∧ s.mode < s.cfg.modes.length ∧ s.cfg.wf = true ∧ s.mem.wf = true := by
  decide +kernel

/-- OnlyTheNamedOperationsWriteEachRegister: base, presence and count change. -/
theorem witness_changed_by_relocate :
    after (exec .hdrRelocate { launch [(0xFEC2, 0x40#8)] [] 0xFEC0#16 [] with count := 2#8 })
      (fun t => (decide (t.base ≠ 0xFEC0#16), decide (t.presence ≠ State.reset.presence), decide (t.count ≠ 2#8))) =
      some (true, true, true) := by decide +kernel
/-- OnlyTheNamedOperationsWriteEachRegister: status and queue change. -/
theorem witness_changed_by_keyboard :
    after (exec .kbdReadbuf (launch [(0xFEDC, 0x01#8), (0xFEE9, 0x01#8)] [0x41#8] 0xFED9#16 []))
      (fun t => (decide (t.kbdStatus ≠ 0x00#8), decide (t.kbdQueue ≠ [0x41#8]))) = some (true, true) := by decide +kernel
/-- OnlyTheNamedOperationsWriteEachRegister: the cached disk changes. -/
theorem witness_changed_by_disk :
    after (exec (.dskCmd 0x01#8) (launch [(0xFEFE, 0x07#8)] [] 0xFEEE#16 [])) (fun t => decide (t.lastDisk ≠ 0#8)) =
      some true := by
  simp only [after, exec, execDskCmd, State.ack_lastDisk, State.media_lastDisk]
  decide +kernel

/-- KeyEnqueuesOrDrops: a queue with one free place, and a full one. -/
theorem witness_queue :
    (launch [] [1#8, 2#8, 3#8, 4#8, 5#8, 6#8, 7#8] 0#16 []).kbdQueue.length < Config.reference.kbdQueueCap ∧
      Config.reference.kbdQueueCap ≤ (launch [] [1#8, 2#8, 3#8, 4#8, 5#8, 6#8, 7#8, 8#8] 0#16 []).kbdQueue.length := by decide

/-- AccessesThatAreNotLiveStartNothing: a write of a command and a read, just past the live window. -/
theorem witness_not_live :
    (bus [] (Access.toWord { we := true, addr := 0xFFFF#16, data := 0x03#8 })).isLive 0xFFFF#16 = false ∧
      ({ bus [] (Access.toWord { we := false, addr := 0xFEEE#16, data := 0x00#8 }) with count := 2#8 }).isLive 0xFEEE#16 = false := by
  decide +kernel

/-- SyncCommandsEcho, UnimplementedHeaderCommandIsLogged, RelocateMovesTheWindow, with the values at their bounds. -/
theorem witness_header :
    (launch [] [] 0xFEC0#16 []).Inv ∧ (launch [] [] 0xFEC0#16 []).target 0xFEC0#16 = .hdr .command ∧
      0x04 ≤ (0x04#8 : Byte).toNat ∧ (0x7F#8 : Byte).toNat < 0x80 :=
  ⟨launch_inv rfl (by decide), by decide +kernel, by decide, by decide⟩

/-- CountWriteEchoesAndLoads, CountTakesEffectAtOnce. -/
theorem witness_count :
    (launch [] [] 0xFEC3#16 []).Inv ∧ (launch [] [] 0xFEC3#16 []).target 0xFEC3#16 = .hdr .count :=
  ⟨launch_inv rfl (by decide), by decide +kernel⟩

/-- OldWindowIsNotLive, both clauses, for the overlapping windows of H20: the one address left out, and the one added. -/
theorem witness_windows :
    State.reset.Inv ∧ (0xFEC0#16 - State.reset.base).toNat < 319 ∧ 319 ≤ (0xFEC0#16 - 0xFEC1#16).toNat ∧
      (0xFFFF#16 - 0xFEC1#16).toNat < 319 ∧ State.reset.routed 0xFFFF#16 = true :=
  ⟨witness_inv, by decide, by decide, by decide, by decide +kernel⟩

/-- RelocProgramReachesItsTarget: the program of S4. -/
theorem witness_reloc :
    let s := launch [] [] 0#16 ((Pseudo.reloc 0x1234#16).inputs 0xFEC0#16 ++ [])
    s.Inv ∧ (∀ k : Nat, k < 3 → s.isLive (s.base + BitVec.ofNat 16 k) = true) ∧ s.base = 0xFEC0#16 :=
  ⟨launch_inv rfl (by decide), by decide +kernel, by decide⟩

/-- IgnoredCommandsOnlyStoreAndEcho: an ignored value in slot 0 and in slot 1, and an undefined keyboard command. -/
theorem witness_ignored :
    (launch [] [] 0xFEC4#16 []).Inv ∧ (launch [] [] 0xFEC4#16 []).target 0xFEC4#16 = .dcbCmd .unk ∧
      (launch [] [] 0xFED9#16 []).target 0xFED9#16 = .dcbCmd .unk ∧
      (launch [(0xFEE9, 0x01#8)] [] 0xFED9#16 []).target 0xFED9#16 = .dcbCmd .kbd ∧
      (0x00#8 : Byte).toNat = 0 ∧ 0x80 ≤ (0x80#8 : Byte).toNat ∧ 0x05 ≤ (0x05#8 : Byte).toNat ∧ (0x7F#8 : Byte).toNat < 0x80 :=
  ⟨launch_inv rfl (by decide), by decide +kernel, by decide +kernel, by decide +kernel, by decide, by decide, by decide,
    by decide⟩

/-- UnknownDeviceIsNaked. -/
theorem witness_unknown :
    (launch [(0xFED4, 0x03#8)] [] 0xFEC4#16 []).Inv ∧
      (launch [(0xFED4, 0x03#8)] [] 0xFEC4#16 []).target 0xFEC4#16 = .dcbCmd .unk ∧ 0x01 ≤ (0x01#8 : Byte).toNat ∧
      (0x7F#8 : Byte).toNat < 0x80 :=
  ⟨at_inv _ _ (by decide) _ (by decide) _ _, by decide +kernel, by decide, by decide⟩

/-- KeyboardSyncAndProbe, and KeyboardReadDrainsTheQueue with a complete read of no byte. -/
theorem witness_keyboard :
    (launch [(0xFEE9, 0x01#8)] [] 0xFED9#16 []).Inv ∧
      (launch [(0xFEE9, 0x01#8)] [] 0xFED9#16 []).target 0xFED9#16 = .dcbCmd .kbd :=
  ⟨at_inv _ _ (by decide) _ (by decide) _ _, by decide +kernel⟩

/-- KeyboardReadDrainsTheQueue and KeysLandInTheBuffer: three keys, three wanted, at a pointer that wraps (K9). -/
theorem witness_keys :
    let s := launch [(0xFEDA, 0xFE#8), (0xFEDB, 0xFF#8), (0xFEDC, 0x03#8), (0xFEE9, 0x01#8)] [0x01#8, 0x02#8, 0x03#8] 0xFED9#16 []
    s.Inv ∧ s.target s.addr = .dcbCmd .kbd ∧ s.memRead16 (s.addr + BitVec.ofNat 16 s.cfg.kbdPtrOff) = 0xFFFE#16 ∧
      s.memRead16 (s.addr + BitVec.ofNat 16 s.cfg.kbdCntOff) = 3#16 ∧
      (∀ i : Nat, i < 3 → s.routed (0xFFFE#16 + BitVec.ofNat 16 i) = true) ∧
      (∀ j : Nat, j < 3 → 0xFFFE#16 + BitVec.ofNat 16 j ≠ s.addr) :=
  ⟨launch_inv (by decide) (by decide), by decide +kernel⟩

/-- ShortKeyboardReadKeepsTheCommand: one key, three wanted, at 0x7000 (K7). -/
theorem witness_short :
    let s := launch [(0xFEDB, 0x70#8), (0xFEDC, 0x03#8), (0xFEE9, 0x01#8)] [0x41#8] 0xFED9#16 []
    s.Inv ∧ s.target s.addr = .dcbCmd .kbd ∧
      s.kbdQueue.length < (s.memRead16 (s.addr + BitVec.ofNat 16 s.cfg.kbdCntOff)).toNat ∧
      (∀ i : Nat, i < 1 →
        s.writePhys (s.memRead16 (s.addr + BitVec.ofNat 16 s.cfg.kbdPtrOff) + BitVec.ofNat 16 i) ≠ s.writePhys s.addr) :=
  ⟨launch_inv (by decide) (by decide), by decide +kernel⟩

/-- PrinterCommandsAreAcknowledged, and the disk, tape and repeat statements, in the DCB of each device. -/
theorem witness_printer :
    (launch [(0xFEE9, 0x02#8)] [] 0xFED9#16 []).Inv ∧
      (launch [(0xFEE9, 0x02#8)] [] 0xFED9#16 []).target 0xFED9#16 = .dcbCmd .prn :=
  ⟨at_inv _ _ (by decide) _ (by decide) _ _, by decide +kernel⟩
theorem witness_disk :
    (launch [(0xFEE9, 0x07#8)] [] 0xFED9#16 []).Inv ∧
      (launch [(0xFEE9, 0x07#8)] [] 0xFED9#16 []).target 0xFED9#16 = .dcbCmd .dsk :=
  ⟨at_inv _ _ (by decide) _ (by decide) _ _, by decide +kernel⟩
theorem witness_tape :
    (launch [(0xFEE2, 0x01#8), (0xFEE9, 0x09#8)] [] 0xFED9#16 []).Inv ∧
      (launch [(0xFEE2, 0x01#8), (0xFEE9, 0x09#8)] [] 0xFED9#16 []).target 0xFED9#16 = .dcbCmd .tap :=
  ⟨launch_inv (by decide) (by decide), by decide +kernel⟩
theorem witness_repeat :
    (launch [(0xFEE2, 0x05#8), (0xFEE9, 0x02#8)] [] 0xFED9#16 []).Inv ∧
      (launch [(0xFEE2, 0x05#8), (0xFEE9, 0x02#8)] [] 0xFED9#16 []).target 0xFED9#16 = .dcbCmd .rpt :=
  ⟨launch_inv (by decide) (by decide), by decide +kernel⟩

/-- SlotZeroCommandByteKeepsBitSeven: a printer in slot 0, written with 0x04, which is no keyboard read there. -/
theorem witness_slot_zero :
    let s := launch [(0xFED4, 0x02#8)] [] 0#16 [.cpu (Access.toWord { we := true, addr := 0xFEC4#16, data := 0x04#8 })]
    s.Inv ∧ s.base + 4#16 = 0xFEC4#16 ∧ s.isLive 0xFEC4#16 = true ∧ route (s.idAt 0xFEC4#16) ≠ .keyboard :=
  ⟨at_inv _ _ (by decide) _ (by decide) _ _, by decide, by decide +kernel, by decide +kernel⟩

/-- RoutingIsByIdentityAlone: the last slot. -/
theorem witness_routing :
    let s := launch [(0xFFFA, 0x01#8)] [] 0#16 [.cpu (Access.toWord { we := true, addr := 0xFFEA#16, data := 0x7F#8 })]
    s.Inv ∧ s.isLive 0xFFEA#16 = true ∧ 0xFFEA#16 = s.base + BitVec.ofNat 16 (4 + 21 * 14) :=
  ⟨at_inv _ _ (by decide) _ (by decide) _ _, by decide +kernel, by decide⟩

end Sys2Proof.Tests
end

section
/-! SUPPORT. What the operations do to the registers of the block (10_state.md R22 to R31), and the statements of that
family: the invariant, its establishment, and which operation writes which register. -/

namespace Sys2Proof.Machine

/-! ### The two operations with a branch -/

/-- KEY only replaces the queue, by one that still has room where the old one had (43_devices.md R176). -/
theorem execKey_setQueue (code : BitVec 16) (s : State) :
    ∃ q, execKey code s = .next (s.setQueue q) ∧
      (s.kbdQueue.length ≤ s.cfg.kbdQueueCap → q.length ≤ s.cfg.kbdQueueCap) := by
  unfold execKey
  split
  · next hroom => exact ⟨_, rfl, fun _ => by simpa using hroom⟩
  · exact ⟨s.kbdQueue, rfl, id⟩

/-- KBD_READBUF fills the buffer, then either sets the status ready and clears the command byte or sets the short status
(43_devices.md R174). -/
theorem execKbdReadbuf_cases (s : State) :
    ∃ p n,
      execKbdReadbuf s =
          .next ((((s.storeCommand s.addr 0x04#8).filled p n).setKbdStatus kbdReady).memWrite s.addr 0x00#8) ∨
        execKbdReadbuf s = .next (((s.storeCommand s.addr 0x04#8).filled p n).setKbdStatus kbdShort) := by
  rw [execKbdReadbuf_eq]
  dsimp only
  split
  · exact ⟨_, _, .inl rfl⟩
  · exact ⟨_, _, .inr rfl⟩

/-! ### The invariant, operation by operation -/

theorem State.Inv.setMode {s : State} (hi : s.Inv) {m : Nat} (hm : m < s.cfg.modes.length) : (s.setMode m).Inv :=
  { hi with mode := hm }

theorem State.Inv.filled {s : State} (hi : s.Inv) (p : Addr) (n : Nat) : (s.filled p n).Inv := by
  have hq : (s.kbdQueue.drop n).length ≤ s.cfg.kbdQueueCap := by
    have := hi.queue
    rw [List.length_drop]
    omega
  exact (hi.memWrites _).setQueue (by simpa using hq)

theorem execKbdReadbuf_inv {s : State} (hi : s.Inv) : ∃ t, execKbdReadbuf s = .next t ∧ t.Inv := by
  obtain ⟨p, n, h | h⟩ := execKbdReadbuf_cases s
  · exact ⟨_, h, (((hi.storeCommand _ _).filled p n).setKbdStatus (.inr (.inl rfl))).memWrite _ _⟩
  · exact ⟨_, h, ((hi.storeCommand _ _).filled p n).setKbdStatus (.inr (.inr rfl))⟩

theorem execKey_inv {s : State} (hi : s.Inv) (code : BitVec 16) : ∃ t, execKey code s = .next t ∧ t.Inv := by
  obtain ⟨_, h, hq⟩ := execKey_setQueue code s
  exact ⟨_, h, hi.setQueue (hq hi.queue)⟩

/-- RESET needs only a legal environment: it sets every register of the block itself (70_reset R230). -/
theorem execReset_inv {s : State} (hqueue : s.kbdQueue.length ≤ s.cfg.kbdQueueCap) (hmode : s.mode < s.cfg.modes.length)
    (hcfg : s.cfg.wf = true) (hmem : s.mem.wf = true) : ∃ t, execReset s = .next t ∧ t.Inv :=
  ⟨_, rfl,
    { presence := fun a => Presence.flag_window _ a
      count := Nat.le_refl 15
      lastDisk := Nat.zero_le 3
      kbdStatus := .inl rfl
      queue := hqueue
      mode := hmode
      cfg := hcfg
      mem := hmem }⟩

/-- The count a count write loads is in range (41_header.md R128). -/
theorem capCount_le (v : Byte) : (capCount v).toNat ≤ 15 := by
  rw [capCount_toNat]
  omega

/-- A disk index fits the cached disk register. -/
theorem diskByte_le (i : Fin 4) : (BitVec.ofNat 8 i.val).toNat ≤ 3 := by
  rw [BitVec.toNat_ofNat]
  omega

/-- Every operation keeps the invariant: each is a chain of shared operations that keep it. -/
theorem exec_inv {s : State} (hi : s.Inv) : ∀ i, ∃ t, exec i s = .next t ∧ t.Inv
  | .plainRd | .hdrRd _ | .dcbCmdRd _ | .dcbParRd | .kbdStatusRd => ⟨_, rfl, hi.giveData _⟩
  | .plainWr _ | .hdrNop | .hdrHigh _ | .hdrParamWr _ | .dcbParWr _ => ⟨_, rfl, hi.memWrite _ _⟩
  | .hdrSyncCpu | .hdrSyncPctl => ⟨_, rfl, hi.storeEcho _⟩
  | .hdrRelocate => ⟨_, rfl, (hi.storeEcho _).relocate _⟩
  | .hdrUnimpl _ => ⟨_, rfl, (hi.memWrite _ _).logEvent _⟩
  | .hdrCountWr v => ⟨_, rfl, (hi.storeEcho v).setCount (capCount_le v)⟩
  | .dcbCmdIgnore _ _ | .kbdUndef _ => ⟨_, rfl, hi.storeCommand _ _⟩
  | .unkNak _ => ⟨_, rfl, ((hi.storeCommand _ _).memWrite _ _).logEvent _⟩
  | .kbdSync _ => ⟨_, rfl, ((hi.storeCommand _ _).setKbdStatus (.inr (.inl rfl))).memWrite _ _⟩
  | .kbdProbe => ⟨_, rfl, ((hi.storeCommand _ _).memWrite _ _).setKbdStatus (.inr (.inl rfl))⟩
  | .kbdReadbuf => execKbdReadbuf_inv hi
  | .prnCmd _ => ⟨_, rfl, (hi.storeCommand _ _).ack _ _⟩
  | .dskCmd _ => ⟨_, rfl, (((hi.storeCommand _ _).setLastDisk (diskByte_le _)).media _ _ _ _).ack _ _⟩
  | .tapCmd _ | .dskRepeat _ => ⟨_, rfl, ((hi.storeCommand _ _).media _ _ _ _).ack _ _⟩
  | .reset => execReset_inv hi.queue hi.mode hi.cfg hi.mem
  | .key code => execKey_inv hi code

theorem exec_next_inv {i : Instr} {s t : State} (hi : s.Inv) (h : exec i s = .next t) : t.Inv := by
  obtain ⟨t', h', ht'⟩ := exec_inv hi i
  obtain rfl := Host.Outcome.next.inj (h'.symm.trans h)
  exact ht'

/-! ### The statements -/

/-- Settles O26: each of the four things a step can be keeps the invariant. -/
theorem stepKeepsTheInvariant : Obligations.StepKeepsTheInvariant := by
  intro s t hi hstep
  obtain ⟨-, rfl⟩ | ⟨w, rest, -, hrun⟩ | ⟨w, rest, i, -, -, hrun⟩ | ⟨m, rest, -, hm, rfl⟩ := step_cases hstep
  · exact hi
  · exact exec_next_inv (hi.presented _ rest) hrun
  · exact exec_next_inv (hi.accept rest) hrun
  · exact (hi.accept rest).setMode hm

/-- Settles O27: State.reset is what RESET makes of a state with a legal environment. -/
theorem resetEstablishesTheInvariant : Obligations.ResetEstablishesTheInvariant := by
  refine ⟨?_, fun s => execReset_inv⟩
  obtain ⟨t, hrun, ht⟩ := execReset_inv (s := State.reset) (Nat.zero_le 8) (by decide : (1 : Nat) < 16)
    Config.reference_wf rfl
  cases hrun
  exact ht

/-- Settles O28: after each operation the laws of the shared operations give every register, so that a register either
is the old one or the operation is among those named for it. KEY and KBD_READBUF branch, and go through their own laws. -/
theorem onlyTheNamedOperationsWriteEachRegister : Obligations.OnlyTheNamedOperationsWriteEachRegister := by
  intro i s t h
  obtain ⟨t', h', hmode, hcfg, hinputs, haddr⟩ := exec_next i s
  obtain rfl := Host.Outcome.next.inj (h'.symm.trans h)
  simp only [hmode, hcfg, hinputs, haddr, and_self, and_true]
  cases i
  case key code =>
    obtain ⟨q, hq, -⟩ := execKey_setQueue code s
    obtain rfl := Host.Outcome.next.inj (hq.symm.trans h)
    simp
  case kbdReadbuf =>
    obtain ⟨p, n, hfull | hshort⟩ := execKbdReadbuf_cases s
    · obtain rfl := Host.Outcome.next.inj (hfull.symm.trans h)
      simp [State.filled]
    · obtain rfl := Host.Outcome.next.inj (hshort.symm.trans h)
      simp [State.filled]
  all_goals
    obtain rfl := Host.Outcome.next.inj h
    simp

end Sys2Proof.Machine
end

section
/-! SUPPORT. How the page maps and the bytes of the regions behave under writes and steps (20_memory.md), and the
statements of that family. -/

namespace Sys2Proof

/-! ### Handles of a legal configuration -/

/-- A frame that its region has holds the whole page (R50, R52). -/
theorem Config.exists_region_of_hasFrame {c : Config} {h : Handle} (hf : c.hasFrame h = true) (a : Addr) :
    ∃ r ∈ c.regions, r.region = h.region ∧ h.offset a < r.frames * 0x2000 := by
  obtain ⟨r, hr, hp⟩ := List.any_eq_true.mp hf
  simp only [Bool.and_eq_true, decide_eq_true_eq] at hp
  obtain ⟨hregion, hframe⟩ := hp
  have hofs := pofs_lt a
  refine ⟨r, hr, hregion, ?_⟩
  unfold Handle.offset
  omega

theorem Handle.eq_iff (h h' : Handle) : h = h' ↔ h.region = h'.region ∧ h.frame = h'.frame := by
  cases h
  cases h'
  simp

theorem Handle.eq_mainRamAt_iff (h : Handle) (p : Fin 8) :
    h = mainRamAt p ↔ h.region = .mainRAM ∧ h.frame = p.val := h.eq_iff (mainRamAt p)

/-- R59's definition of a routed band, page by page. -/
theorem ModeMap.bandOnMainRam_iff (m : ModeMap) (b : Fin 3) :
    m.bandOnMainRam b = true ↔
      ∀ p ∈ bandPages b, m.read.get p = mainRamAt p ∧ m.write.get p = mainRamAt p := by
  simp [ModeMap.bandOnMainRam, ModeMap.pageOnMainRam]

end Sys2Proof

namespace Sys2Proof.Machine

/-! ### Writes through the page map -/

/-- A write to ROM is discarded (R54). -/
theorem State.memWrite_of_rom {s : State} {a : Addr} (hk : (s.writeHandle a).region.kind = .rom) (v : Byte) :
    s.memWrite a v = s := if_pos hk

/-- A write moves no read view: an address selects the same physical byte before and after (R53). -/
theorem State.memRead_memWrite (s : State) (a b : Addr) (v : Byte) :
    (s.memWrite a v).memRead b = (s.memWrite a v).mem.get (s.readPhys b) := by
  unfold State.memRead
  rw [State.memWrite_readPhys]

/-- A write that reaches no RAM shows in no read view of any mode: a ROM discards it, and no read view is a Sink. -/
theorem State.memWrite_get_readView {s : State} (hi : s.Inv) {a : Addr} (hk : (s.writeHandle a).region.kind ≠ .ram)
    (v : Byte) {m : Nat} (hm : m < s.cfg.modes.length) (b : Addr) :
    (s.memWrite a v).mem.get (((s.cfg.modeMap m).read.get (page b)).phys b) =
      s.mem.get (((s.cfg.modeMap m).read.get (page b)).phys b) := by
  cases hkind : (s.writeHandle a).region.kind with
  | ram => exact absurd hkind hk
  | rom => rw [State.memWrite_of_rom hkind]
  | sink =>
    have hread := (Config.readHandle_wf hi.cfg hm (page b)).2
    refine State.memWrite_get_ne s v (.inl fun e => hread ?_)
    rw [(Handle.phys_inj e).1, hkind]

/-! ### ROM regions -/

section Rom

variable (s : State) {h : Handle} (hr : h.region.kind = .rom) (b : Addr)
include hr

theorem State.storeCommand_rom (d : Addr) (v : Byte) :
    (s.storeCommand d v).mem.get (h.phys b) = s.mem.get (h.phys b) := by
  unfold State.storeCommand
  split <;> simp only [State.memWrite_rom _ _ _ hr]

theorem State.storeEcho_rom (v : Byte) : (s.storeEcho v).mem.get (h.phys b) = s.mem.get (h.phys b) := by
  unfold State.storeEcho
  simp only [State.memWrite_rom _ _ _ hr]

theorem State.ack_rom (d : Addr) (v : Byte) : (s.ack d v).mem.get (h.phys b) = s.mem.get (h.phys b) :=
  s.memWrite_rom d _ hr b

theorem State.media_rom (k : MediaKind) (i : Fin 4) (v : Byte) (d : Addr) :
    (s.media k i v d).mem.get (h.phys b) = s.mem.get (h.phys b) :=
  State.memWrites_rom _ _ hr b

theorem State.filled_rom (p : Addr) (n : Nat) : (s.filled p n).mem.get (h.phys b) = s.mem.get (h.phys b) :=
  State.memWrites_rom s _ hr b

/-- No operation changes a byte of a ROM region: each changes memory only by the shared stores, which keep it. -/
theorem exec_rom {i : Instr} {t : State} (hrun : exec i s = .next t) :
    t.mem.get (h.phys b) = s.mem.get (h.phys b) := by
  cases i
  case key code =>
    obtain ⟨q, hq, -⟩ := execKey_setQueue code s
    obtain rfl := Host.Outcome.next.inj (hq.symm.trans hrun)
    rfl
  case kbdReadbuf =>
    obtain ⟨p, n, hfull | hshort⟩ := execKbdReadbuf_cases s
    · obtain rfl := Host.Outcome.next.inj (hfull.symm.trans hrun)
      rw [State.memWrite_rom _ _ _ hr, State.setKbdStatus_mem, State.filled_rom _ hr, State.storeCommand_rom _ hr]
    · obtain rfl := Host.Outcome.next.inj (hshort.symm.trans hrun)
      rw [State.setKbdStatus_mem, State.filled_rom _ hr, State.storeCommand_rom _ hr]
  all_goals
    obtain rfl := Host.Outcome.next.inj hrun
    simp [hr, State.memWrite_rom, State.storeCommand_rom, State.storeEcho_rom, State.media_rom, State.ack_rom]

end Rom

/-! ### Pending inputs -/

theorem exec_inputs {i : Instr} {s t : State} (hrun : exec i s = .next t) : t.inputs = s.inputs := by
  obtain ⟨t', hnext, -, -, hinputs, -⟩ := exec_next i s
  obtain rfl := Host.Outcome.next.inj (hnext.symm.trans hrun)
  exact hinputs

/-! ### The statements -/

/-- Settles O25: taking an input and a mode change leave memory, and the operations keep every byte of a ROM. -/
theorem noStepChangesRom : Obligations.NoStepChangesRom := by
  intro s t h a hstep hr
  obtain ⟨-, rfl⟩ | ⟨w, rest, -, hrun⟩ | ⟨w, rest, i, -, -, hrun⟩ | ⟨m, rest, -, -, rfl⟩ := step_cases hstep
  · rfl
  · exact exec_rom (s.presented _ rest) hr a hrun
  · exact exec_rom (s.accept rest) hr a hrun
  · rfl

/-- Settles O14: the fetch takes the oldest input off, and no operation touches the rest. -/
theorem inputsAreServedOneAtATimeInOrder : Obligations.InputsAreServedOneAtATimeInOrder := by
  intro s t hstep
  obtain hidle | ⟨w, rest, hin, hrun⟩ | ⟨w, rest, i, hin, -, hrun⟩ | ⟨m, rest, hin, -, rfl⟩ := step_cases hstep
  · exact .inl hidle
  · exact .inr ⟨_, rest, hin, exec_inputs hrun⟩
  · exact .inr ⟨_, rest, hin, exec_inputs hrun⟩
  · exact .inr ⟨_, rest, hin, rfl⟩

/-- Settles O16: the presence flag adds nothing, since 15 slots below the bound end where the window ends. -/
theorem livenessUnderTheInvariant : Obligations.LivenessUnderTheInvariant := by
  intro s a hi
  have hcount := hi.count
  have hwindow : (a - s.base).toNat < 4 + 21 * s.count.toNat → s.presence.flag a = true := by
    intro hoff
    rw [hi.presence a, decide_eq_true_eq]
    unfold State.off windowSize
    omega
  rw [State.isLive_iff]
  exact ⟨fun ⟨_, hroute, hoff⟩ => ⟨hroute, hoff⟩, fun ⟨hroute, hoff⟩ => ⟨hwindow hoff, hroute, hoff⟩⟩

/-- Settles O19: what a write does to each byte, and that a ROM or Sink write reaches no read view. -/
theorem memWriteStoresOneByte : Obligations.MemWriteStoresOneByte := by
  intro s a v hm
  refine ⟨fun n hn => State.memWrite_get_ne s v hn, fun hrom => State.memWrite_of_rom hrom v, fun hk => ?_,
    fun hi hk => ⟨fun b => ?_, fun m b hmode => State.memWrite_get_readView hi hk v hmode b⟩⟩
  · rw [State.memWrite_get hm, if_pos ⟨rfl, hk⟩]
  · rw [State.memRead_memWrite]
    exact State.memWrite_get_readView hi hk v hi.mode b

/-- Settles O20: on routed bands both views are the one byte of main RAM with the address's own number. -/
theorem routedWritesReadBack : Obligations.RoutedWritesReadBack := by
  intro s a b v hi ha
  refine ⟨State.memRead_memWrite_routed hi ha v, fun hb hne => ?_⟩
  rw [State.memRead_memWrite]
  exact State.memWrite_get_ne s v (.inl (State.readPhys_ne_writePhys hi ha hb hne))

/-- Settles O21: the physical numbering is injective in handle and place. -/
theorem handlesSelectDistinctBytes : Obligations.HandlesSelectDistinctBytes := by
  intro h h' a a'
  rw [Handle.phys_eq_iff, Handle.eq_iff, and_assoc]
  rfl

/-- Settles O22: the handles of a legal mode row show frames that their regions have. -/
theorem everyViewShowsAnExistingByte : Obligations.EveryViewShowsAnExistingByte := by
  intro s a hi
  obtain ⟨hread, hsink⟩ := Config.readHandle_wf hi.cfg hi.mode (page a)
  have hwrite := Config.writeHandle_wf hi.cfg hi.mode (page a)
  exact ⟨Config.exists_region_of_hasFrame hread a, Config.exists_region_of_hasFrame hwrite a, hsink⟩

/-- Settles O23: a legal mode row carries R59's own routing. -/
theorem routedBandsAreMainRam : Obligations.RoutedBandsAreMainRam := by
  intro s a hi
  unfold State.routed State.maps
  rw [Config.routed_eq hi.cfg hi.mode, ModeMap.bandOnMainRam_iff]
  simp only [Handle.eq_mainRamAt_iff, and_assoc]

/-- Settles O24: the 16 rows of the reference mode table, one by one. -/
theorem referenceBandRules : Obligations.ReferenceBandRules := by
  unfold Obligations.ReferenceBandRules
  decide

end Sys2Proof.Machine
end

section
/-! SUPPORT. Encoding and decoding of the operations are inverse to each other (30_encoding.md R81, R84, R92). -/

namespace Sys2Proof

/-! ### The rows of R92 with a value range -/

theorem decodeHeaderCommand_of_unimpl {v : Byte} (hlow : 0x04 ≤ v.toNat) (hhigh : v.toNat < 0x80) :
    decodeHeaderCommand v = .hdrUnimpl v := by
  have hne : ∀ k : Byte, k.toNat < 0x04 → v ≠ k := fun k hk => (BitVec.ne_of_lt (hk.trans_le hlow)).symm
  simp [decodeHeaderCommand, hne, hhigh]

theorem decodeHeaderCommand_of_high {v : Byte} (h : 0x80 ≤ v.toNat) : decodeHeaderCommand v = .hdrHigh v := by
  have hne : ∀ k : Byte, k.toNat < 0x80 → v ≠ k := fun k hk => (BitVec.ne_of_lt (hk.trans_le h)).symm
  simp [decodeHeaderCommand, hne, h]

theorem decodeDeviceCommand_of_kbdUndef {v : Byte} (h : 0x05 ≤ v.toNat) :
    decodeDeviceCommand .kbd v = .kbdUndef v := by
  have hne : ∀ k : Byte, k.toNat < 0x05 → v ≠ k := fun k hk => (BitVec.ne_of_lt (hk.trans_le h)).symm
  simp [decodeDeviceCommand, hne]

theorem isCommand_eq_false_iff (v : Byte) : isCommand v = false ↔ v = 0x00#8 ∨ 0x80 ≤ v.toNat := by
  simp [isCommand, or_iff_not_imp_left]

theorem isCommand_iff_toNat (v : Byte) : isCommand v = true ↔ 0x01 ≤ v.toNat ∧ v.toNat < 0x80 := by
  have hzero : v ≠ 0x00#8 ↔ 0x01 ≤ v.toNat := by rw [Ne, ← BitVec.toNat_inj]; simp; omega
  simp [isCommand, ← hzero]

theorem decodeWrite_of_ignored (dev : DevClass) {v : Byte} (h : v = 0x00#8 ∨ 0x80 ≤ v.toNat) :
    decodeWrite (.dcbCmd dev) v = .dcbCmdIgnore dev v := if_pos h

theorem decodeWrite_of_command (dev : DevClass) {v : Byte} (h : isCommand v = true) :
    decodeWrite (.dcbCmd dev) v = decodeDeviceCommand dev v := by
  refine if_neg fun hv => ?_
  rw [← isCommand_eq_false_iff, h] at hv
  cases hv

theorem decodeRead_of_device {dev : DevClass} (h : dev ≠ .kbd) : decodeRead (.dcbCmd dev) = .dcbCmdRd dev := by
  cases dev with
  | kbd => exact absurd rfl h
  | prn | dsk | tap | rpt | unk => rfl

/-! ### Decoding after encoding, and encoding after decoding -/

theorem decode_packed_read (t : Target) : decode (.dcw (packCommand false t 0x00#8)) = .ok (decodeRead t) :=
  decodeCommand_pack false t 0x00#8

theorem decode_packed_write (t : Target) (v : Byte) :
    decode (.dcw (packCommand true t v)) = .ok (decodeWrite t v) := decodeCommand_pack true t v

theorem decode_packed_command (dev : DevClass) {v : Byte} (h : isCommand v = true) :
    decode (.dcw (packCommand true (.dcbCmd dev) v)) = .ok (decodeDeviceCommand dev v) := by
  rw [decode_packed_write, decodeWrite_of_command dev h]

/-- A host word is decoded by its OP field alone (R81). -/
theorem decodeHost_append (op : BitVec 2) (code : BitVec 16) :
    decodeHost (op ++ code) =
      if op = 0b01#2 then .ok .reset else if op = 0b10#2 then .ok (.key code) else .error .reservedHostOp := by
  obtain ⟨hop, hcode⟩ := hostWord_fields op code
  unfold decodeHost
  rw [hop, hcode]

theorem decode_encode : ∀ {i : Instr}, i.wf = true → decode (encode i) = .ok i
  | .plainRd, _ | .hdrRd _, _ | .kbdStatusRd, _ | .dcbParRd, _ => decode_packed_read _
  | .dcbCmdRd dev, h => by
    have hdev : dev ≠ .kbd := by simpa [Instr.wf] using h
    rw [encode, decode_packed_read, decodeRead_of_device hdev]
  | .plainWr v, _ => decode_packed_write .plain v
  | .hdrParamWr v, _ => decode_packed_write (.hdr .target) v
  | .hdrCountWr v, _ => decode_packed_write (.hdr .count) v
  | .dcbParWr v, _ => decode_packed_write .dcbPar v
  | .hdrNop, _ | .hdrSyncCpu, _ | .hdrSyncPctl, _ | .hdrRelocate, _ => decode_packed_write (.hdr .command) _
  | .hdrUnimpl v, h => by
    obtain ⟨hlow, hhigh⟩ : 0x04 ≤ v.toNat ∧ v.toNat < 0x80 := by simpa [Instr.wf] using h
    rw [encode, decode_packed_write, decodeWrite, decodeHeaderCommand_of_unimpl hlow hhigh]
  | .hdrHigh v, h => by
    have hhigh : 0x80 ≤ v.toNat := by simpa [Instr.wf] using h
    rw [encode, decode_packed_write, decodeWrite, decodeHeaderCommand_of_high hhigh]
  | .dcbCmdIgnore dev v, h => by
    have hv : v = 0x00#8 ∨ 0x80 ≤ v.toNat := by simpa [Instr.wf, isCommand_eq_false_iff] using h
    rw [encode, decode_packed_write, decodeWrite_of_ignored dev hv]
  | .kbdSync v, h => by
    have hv : v = 0x01#8 ∨ v = 0x02#8 := by simpa [Instr.wf] using h
    obtain rfl | rfl := hv <;> exact decode_packed_write (.dcbCmd .kbd) _
  | .kbdProbe, _ | .kbdReadbuf, _ => decode_packed_write (.dcbCmd .kbd) _
  | .kbdUndef v, h => by
    obtain ⟨hlow, hhigh⟩ : 0x05 ≤ v.toNat ∧ v.toNat < 0x80 := by simpa [Instr.wf] using h
    have hv : isCommand v = true := (isCommand_iff_toNat v).mpr ⟨by omega, hhigh⟩
    rw [encode, decode_packed_command .kbd hv, decodeDeviceCommand_of_kbdUndef hlow]
  | .prnCmd _, h => decode_packed_command .prn h
  | .dskCmd _, h => decode_packed_command .dsk h
  | .tapCmd _, h => decode_packed_command .tap h
  | .dskRepeat _, h => decode_packed_command .rpt h
  | .unkNak _, h => decode_packed_command .unk h
  | .reset, _ => decodeHost_append 0b01#2 0#16
  | .key code, _ => decodeHost_append 0b10#2 code

theorem encode_decodeRead : ∀ t : Target, encode (decodeRead t) = .dcw (packCommand false t 0x00#8)
  | .plain | .hdr _ | .dcbPar => rfl
  | .dcbCmd .kbd | .dcbCmd .prn | .dcbCmd .dsk | .dcbCmd .tap | .dcbCmd .rpt | .dcbCmd .unk => rfl

theorem encode_decodeHeaderCommand (v : Byte) :
    encode (decodeHeaderCommand v) = .dcw (packCommand true (.hdr .command) v) := by
  fun_cases decodeHeaderCommand v
  case case1 hv | case2 hv | case3 hv | case4 hv => rw [hv]; rfl
  case case5 | case6 => rfl

theorem encode_decodeDeviceCommand (dev : DevClass) (v : Byte) :
    encode (decodeDeviceCommand dev v) = .dcw (packCommand true (.dcbCmd dev) v) := by
  fun_cases decodeDeviceCommand dev v
  case case2 hv | case3 hv => rw [hv]; rfl
  all_goals rfl

theorem encode_decodeWrite : ∀ (t : Target) (v : Byte), encode (decodeWrite t v) = .dcw (packCommand true t v)
  | .plain, _ | .hdr .target, _ | .hdr .count, _ | .dcbPar, _ => rfl
  | .hdr .command, v => encode_decodeHeaderCommand v
  | .dcbCmd dev, v => by
    rw [decodeWrite]
    split
    · rfl
    · exact encode_decodeDeviceCommand dev v

/-- Settles O2, operation by operation: the word is the packed word of its row, and the decoder finds the row again from
the operand's range. -/
theorem decodeOfEncodeIsTheOperation : Obligations.DecodeOfEncodeIsTheOperation := fun _ => decode_encode

/-- Settles O3: a word that decodes is a packed one, and each row of the decoder is encoded as the word it came from. -/
theorem encodeOfDecodeIsTheWord : Obligations.EncodeOfDecodeIsTheWord := by
  intro w i h
  obtain ⟨t, v, rfl, rfl⟩ | ⟨t, rfl, rfl⟩ := decodeCommand_ok h
  · exact ⟨decodeWrite_wf t v, encode_decodeWrite t v⟩
  · exact ⟨decodeRead_wf t, encode_decodeRead t⟩

end Sys2Proof
end

section
/-! SUPPORT. Which rows of the opcode table a word matches, which words are reserved, and what the fields of a word say
(30_encoding.md R80 to R93), with the statements about them. -/

namespace Sys2Proof

/-! ### The rows a word matches -/

theorem bytes_append (w : BitVec 16) : w.extractLsb' 8 8 ++ w.extractLsb' 0 8 = w :=
  (BitVec.extractLsb'_append_extractLsb'_eq_extractLsb' rfl).trans (extract_self w)

theorem eq_iff_bytes_eq (w w' : BitVec 16) :
    w = w' ↔ w.extractLsb' 8 8 = w'.extractLsb' 8 8 ∧ w.extractLsb' 0 8 = w'.extractLsb' 0 8 := by
  refine ⟨fun h => h ▸ ⟨rfl, rfl⟩, fun ⟨hhigh, hlow⟩ => ?_⟩
  rw [← bytes_append w, ← bytes_append w', hhigh, hlow]

/-- The high byte `{WE, REG, DEV}` of a command word (R84). -/
def opcodeByte (we : Bool) (t : Target) : Byte := BitVec.ofBool we ++ t.reg ++ t.dev

/-- The high byte of a row's words: no row masks any bit of it out (`opcodeRows_mask`). -/
def OpcodeRow.opcode (r : OpcodeRow) : Byte := r.pat.extractLsb' 8 8

/-- Field V matches a row. -/
def OpcodeRow.admits (r : OpcodeRow) (v : Byte) : Bool := v &&& r.mask.extractLsb' 0 8 = r.pat.extractLsb' 0 8

theorem opcodeRows_mask : ∀ r ∈ opcodeRows, r.mask.extractLsb' 8 8 = BitVec.allOnes 8 := by decide

theorem OpcodeRow.matches_packCommand {r : OpcodeRow} (hr : r ∈ opcodeRows) (we : Bool) (t : Target) (v : Byte) :
    r.matches (packCommand we t v) = (r.admits v && decide (r.opcode = opcodeByte we t)) := by
  have hhigh : (packCommand we t v).extractLsb' 8 8 = opcodeByte we t := by
    rw [packCommand, extract_high (m := 8) _ v 0, extract_self]; rfl
  obtain ⟨-, -, -, hlow⟩ := packCommand_fields we t v
  unfold OpcodeRow.matches OpcodeRow.admits OpcodeRow.opcode
  rw [← Bool.decide_and, decide_eq_decide, eq_iff_bytes_eq, BitVec.extractLsb'_and, BitVec.extractLsb'_and, hhigh, hlow,
    opcodeRows_mask r hr, BitVec.and_allOnes, and_comm, eq_comm (a := opcodeByte we t)]

/-- The rows of one target and direction. -/
def rowsOf (we : Bool) (t : Target) : List OpcodeRow := opcodeRows.filter fun r => r.opcode = opcodeByte we t

theorem filter_matches_packCommand (we : Bool) (t : Target) (v : Byte) :
    (opcodeRows.filter fun r => r.matches (packCommand we t v)) = (rowsOf we t).filter fun r => r.admits v := by
  rw [rowsOf, List.filter_filter]
  exact List.filter_congr fun r hr => OpcodeRow.matches_packCommand hr we t v

/-- The rows of a written target share its 256 values out among them, as `decodeWrite` does (R92). -/
theorem rowsOf_write (t : Target) (v : Byte) :
    ((rowsOf true t).filter fun r => r.admits v).map (fun r => r.name) = [(decodeWrite t v).mnemonic] := by
  revert v
  cases t with
  | plain | dcbPar => decide +kernel
  | hdr h => cases h <;> decide +kernel
  | dcbCmd dev => cases dev <;> decide +kernel

theorem rowsOf_read (t : Target) :
    ((rowsOf false t).filter fun r => r.admits 0x00#8).map (fun r => r.name) = [(decodeRead t).mnemonic] := by
  cases t with
  | plain | dcbPar => decide +kernel
  | hdr h => cases h <;> decide +kernel
  | dcbCmd dev => cases dev <;> decide +kernel

/-- Settles O4: the high byte picks the rows of the target, and V picks one of them. -/
theorem eachCommandWordMatchesItsOneRow : Obligations.EachCommandWordMatchesItsOneRow := by
  intro w i h
  obtain ⟨t, v, rfl, rfl⟩ | ⟨t, rfl, rfl⟩ := decodeCommand_ok h
  · rw [filter_matches_packCommand, rowsOf_write]
  · rw [filter_matches_packCommand, rowsOf_read]

/-! ### The reserved words -/

theorem DevClass.ofBits_eq_none_iff (d : BitVec 4) : DevClass.ofBits d = none ↔ d = 0#4 ∨ 7 ≤ d.toNat := by
  revert d
  decide

/-- A target is refused for a reserved REG, a DEV beside a REG other than 4, or a reserved DEV beside REG 4 (R93). -/
theorem Target.ofBits_error_iff (reg : BitVec 3) (dev : BitVec 4) :
    (∃ r, Target.ofBits reg dev = .error r) ↔
      reg = 6#3 ∨ reg = 7#3 ∨ (dev ≠ 0#4 ∧ reg ≠ 4#3) ∨ (reg = 4#3 ∧ (dev = 0#4 ∨ 7 ≤ dev.toNat)) := by
  by_cases hreg : reg = 4#3
  · rw [← DevClass.ofBits_eq_none_iff, Target.ofBits, if_pos hreg]
    cases DevClass.ofBits dev <;> simp [hreg]
  · rw [Target.ofBits, if_neg hreg]
    by_cases hreserved : reg = 6#3 ∨ reg = 7#3
    · simp [hreserved, ← or_assoc]
    · by_cases hdev : dev = 0#4
      · rw [if_neg hreserved, if_neg (not_not.mpr hdev)]
        split_ifs <;> simp [hreserved, hdev, hreg]
      · simp [hreserved, hdev, hreg]

/-- The refusals of the decoder: of the target, or of a read that carries data (R93). -/
theorem decodeCommand_error_iff (w : CommandWord) :
    (∃ r, decodeCommand w = .error r) ↔
      (∃ r, Target.ofBits (w.extractLsb' 12 3) (w.extractLsb' 8 4) = .error r) ∨
        (w.getLsbD 15 = false ∧ w.extractLsb' 0 8 ≠ 0x00#8) := by
  unfold decodeCommand
  cases Target.ofBits (w.extractLsb' 12 3) (w.extractLsb' 8 4) with
  | error r => simp
  | ok t =>
    cases w.getLsbD 15 with
    | true => simp
    | false => by_cases hv : w.extractLsb' 0 8 = 0x00#8 <;> simp [hv]

/-- Settles O5: what the decoder refuses, with the refusals of `Target.ofBits` written out. -/
theorem reservedCommandWordsAreRefused : Obligations.ReservedCommandWordsAreRefused := by
  intro w
  rw [decodeCommand_error_iff, Target.ofBits_error_iff]
  simp only [or_assoc]

/-! ### The fields of an access's words -/

theorem Target.reg_eq_iff (t : Target) :
    (t.reg = 0#3 ↔ t = .plain) ∧ (t.reg = 1#3 ↔ t = .hdr .command) ∧ (t.reg = 2#3 ↔ t = .hdr .target) ∧
      (t.reg = 3#3 ↔ t = .hdr .count) ∧ (t.reg = 4#3 ↔ ∃ dev, t = .dcbCmd dev) ∧ (t.reg = 5#3 ↔ t = .dcbPar) := by
  cases t with
  | plain | dcbPar | dcbCmd dev => simp [Target.reg]
  | hdr h => cases h <;> simp [Target.reg]

theorem Target.dev_eq_iff (t : Target) :
    (t.dev = 0#4 ↔ ∀ dev, t ≠ .dcbCmd dev) ∧ (t.dev = 1#4 ↔ t = .dcbCmd .kbd) ∧ (t.dev = 2#4 ↔ t = .dcbCmd .prn) ∧
      (t.dev = 3#4 ↔ t = .dcbCmd .dsk) ∧ (t.dev = 4#4 ↔ t = .dcbCmd .tap) ∧ (t.dev = 5#4 ↔ t = .dcbCmd .rpt) ∧
      (t.dev = 6#4 ↔ t = .dcbCmd .unk) := by
  cases t with
  | plain | hdr h | dcbPar => simp [Target.dev]
  | dcbCmd dev => cases dev <;> simp [Target.dev, DevClass.bits]

/-- Settles O7: the round trip is `Access.ofWord_toWord`, the fields of a word are how `Access.ofWord` reads it. -/
theorem transactionWordCarriesTheAccess : Obligations.TransactionWordCarriesTheAccess :=
  ⟨Access.ofWord_toWord, fun _ => ⟨rfl, rfl, rfl⟩⟩

/-- Settles O8: the four values of OP. -/
theorem hostWordsNameTheHostOperations : Obligations.HostWordsNameTheHostOperations := fun code =>
  ⟨decodeHost_append 0b01#2 code, decodeHost_append 0b10#2 code, decodeHost_append 0b00#2 code,
    decodeHost_append 0b11#2 code⟩

end Sys2Proof

namespace Sys2Proof.Machine

theorem State.operation_wf (s : State) (x : Access) : (s.operation x).wf = true := by
  unfold State.operation
  split
  · exact decodeWrite_wf _ _
  · exact decodeRead_wf _

/-- Settles O6: the fields of the packed word are REG and DEV of the target, and these tell the targets apart. -/
theorem everyAccessNamesAnOperation : Obligations.EveryAccessNamesAnOperation := by
  intro s x
  obtain ⟨hwe, hreg, hdev, hv⟩ := packCommand_fields x.we (s.target x.addr) (if x.we then x.data else 0x00#8)
  obtain ⟨hplain, hcommand, htarget, hcount, hdevice, hparameter⟩ := Target.reg_eq_iff (s.target x.addr)
  refine ⟨⟨_, s.decode_commandWord x, s.operation_wf x⟩, hwe, hv, ?_⟩
  unfold State.commandWord
  rw [hreg, hdev]
  exact ⟨hplain, hcommand, htarget, hcount, hdevice, hparameter, Target.dev_eq_iff _⟩

theorem State.idAt_toNat (s : State) (d : Addr) :
    (s.idAt d).toNat = (s.memRead (d + 9#16)).toNat <<< 4 ||| ((s.memRead (d + 16#16)).toNat &&& 0x0F) := by
  rw [State.idAt, BitVec.toNat_append, BitVec.extractLsb'_toNat, Nat.shiftRight_zero]
  exact congrArg _ (Nat.and_two_pow_sub_one_eq_mod _ 4).symm

/-- Settles O18: appending a nibble is a shift by 4, and cutting it out is a mask. -/
theorem identityFormula : Obligations.IdentityFormula := State.idAt_toNat

end Sys2Proof.Machine
end

section
/-! SUPPORT. What a step does with the next input and where in the window an access falls (30_encoding.md R83), with the
statements about them and about the program RELOC (R97). -/

namespace Sys2Proof.Machine

/-! ### Steps on an access -/

theorem State.operation_of_read {s : State} {x : Access} (h : x.we = false) :
    s.operation x = decodeRead (s.target x.addr) := by simp [State.operation, h]

theorem State.operation_of_write {s : State} {x : Access} (h : x.we = true) :
    s.operation x = decodeWrite (s.target x.addr) x.data := by simp [State.operation, h]

/-- A step on the word of an access (R80): the byte that the word drops from a read names no operation. -/
theorem step_access {s : State} {x : Access} {rest : List Input} (h : s.inputs = .cpu x.toWord :: rest) :
    step s = exec (s.operation x) (s.presented x.addr rest) := by
  rw [step_cpu h, Access.ofWord_toWord]
  unfold State.operation
  cases x.we <;> rfl

/-- Settles O9: the command word of an access always decodes to `State.operation`. -/
theorem stepRunsTheDecodedOperation : Obligations.StepRunsTheDecodedOperation := by
  refine ⟨fun s w rest i hin hdec => ?_, fun s w rest i hin hdec => ?_⟩
  · obtain rfl := Except.ok.inj ((s.decode_commandWord _).symm.trans hdec)
    exact step_cpu hin
  · rw [step_host hin, hdec]
    rfl

/-- Settles O10: the step runs `State.operation`, so that each clause is a row of `decodeRead` or `decodeWrite`. -/
theorem eachAccessRunsTheRowOfItsTarget : Obligations.EachAccessRunsTheRowOfItsTarget := by
  intro s x rest hin ran
  have hstep : ran (s.operation x) := step_access hin
  refine ⟨fun hwe => ?_, fun hwe => ?_⟩
  · rw [State.operation_of_read hwe] at hstep
    have hrow {i : Instr} (hi : decodeRead (s.target x.addr) = i) : ran i := hi ▸ hstep
    exact ⟨fun ht => hrow (ht ▸ rfl), fun h ht => hrow (ht ▸ rfl), fun ht => hrow (ht ▸ rfl),
      fun dev hdev ht => hrow (ht ▸ decodeRead_of_device hdev), fun ht => hrow (ht ▸ rfl)⟩
  · rw [State.operation_of_write hwe] at hstep
    generalize s.target x.addr = t at hstep ⊢
    generalize x.data = v at hstep ⊢
    have hrow {i : Instr} (hi : decodeWrite t v = i) : ran i := hi ▸ hstep
    have hcommand (dev : DevClass) (ht : t = .dcbCmd dev) (hlow : 0x01 ≤ v.toNat) (hhigh : v.toNat ≤ 0x7F) :
        ran (decodeDeviceCommand dev v) :=
      hrow (ht ▸ decodeWrite_of_command dev ((isCommand_iff_toNat v).mpr ⟨hlow, Nat.lt_succ_of_le hhigh⟩))
    refine ⟨fun ht => hrow (ht ▸ rfl), ?header, fun ht => hrow (ht ▸ rfl), fun ht => hrow (ht ▸ rfl),
      fun ht => hrow (ht ▸ rfl), fun dev ht hv => hrow (ht ▸ decodeWrite_of_ignored dev hv), ?keyboard, ?devices⟩
    case header =>
      rintro rfl
      exact ⟨fun hv => hrow (hv ▸ rfl), fun hv => hrow (hv ▸ rfl), fun hv => hrow (hv ▸ rfl), fun hv => hrow (hv ▸ rfl),
        fun hlow hhigh => hrow (decodeHeaderCommand_of_unimpl hlow (Nat.lt_succ_of_le hhigh)),
        fun hhigh => hrow (decodeHeaderCommand_of_high hhigh)⟩
    case keyboard =>
      intro ht
      refine ⟨?_, fun hv => hrow (by rw [ht, hv]; rfl), fun hv => hrow (by rw [ht, hv]; rfl), fun hlow hhigh => ?_⟩
      · rintro (hv | hv) <;> exact hrow (by rw [ht, hv]; rfl)
      · rw [← decodeDeviceCommand_of_kbdUndef hlow]
        exact hcommand .kbd ht (by omega) hhigh
    case devices =>
      exact fun hlow hhigh => ⟨fun ht => hcommand .prn ht hlow hhigh, fun ht => hcommand .dsk ht hlow hhigh,
        fun ht => hcommand .tap ht hlow hhigh, fun ht => hcommand .rpt ht hlow hhigh,
        fun ht => hcommand .unk ht hlow hhigh⟩

/-! ### Refused steps -/

theorem exec_ne_refused (i : Instr) (s : State) (r : Refusal) : exec i s ≠ .refused r := by
  obtain ⟨t, ht, -⟩ := exec_next i s
  simp [ht]

theorem decodeHost_error_iff (w : HostWord) :
    (∃ r, decodeHost w = .error r) ↔ w.extractLsb' 16 2 = 0b00#2 ∨ w.extractLsb' 16 2 = 0b11#2 := by
  have hrest : ∀ op : BitVec 2, op = 0b00#2 ∨ op = 0b11#2 ↔ op ≠ 0b01#2 ∧ op ≠ 0b10#2 := by decide
  rw [hrest]
  unfold decodeHost
  dsimp only
  split_ifs with hreset hkey
  · simp [hreset]
  · simp [hkey]
  · simp [hreset, hkey]

/-- Settles O13: the operations refuse nothing, so only the fetch of a host word or of a mode can. -/
theorem onlyReservedInputsAreRefused : Obligations.OnlyReservedInputsAreRefused := by
  intro s
  cases hin : s.inputs with
  | nil => simp [step_idle hin]
  | cons x rest =>
    cases x with
    | cpu w => simp [step_cpu hin, exec_ne_refused]
    | host w =>
      have hrefused : (∃ r, step s = .refused r) ↔ ∃ r, decodeHost w = .error r := by
        rw [step_host hin]
        cases decodeHost w <;> simp [exec_ne_refused]
      rw [hrefused, decodeHost_error_iff]
      simp
    | mode m =>
      rw [step_mode hin]
      split
      · next hm => simp [hm]
      · next hm => simp; omega

/-! ### Window -/

/-- Under the invariant a routed address at an offset below the bound is live (R61, R29, R30). -/
theorem State.isLive_of_offset {s : State} {a : Addr} {k : Nat} (hi : s.Inv) (hr : s.routed a = true)
    (ha : a = s.base + BitVec.ofNat 16 k) (hk : k < 4 + 21 * s.count.toNat) : s.isLive a = true ∧ s.off a = k := by
  have hoff : s.off a = k := by
    have := hi.count
    rw [ha, State.off_base_add s (by omega)]
  exact ⟨(livenessUnderTheInvariant s a hi).mpr ⟨hr, hoff.trans_lt hk⟩, hoff⟩

theorem byteOf_slot (slot : Nat) {k : Nat} (hk : k < 21) : byteOf (4 + 21 * slot + k) = k := by
  unfold byteOf hdrSize dcbSize
  omega

/-- Settles O15: each clause names an offset, below the bound but for the last, and the target of a live address follows
its offset. -/
theorem targetsFollowTheWindowGeometry : Obligations.TargetsFollowTheWindowGeometry := by
  intro s hi
  refine ⟨fun a hr ha => ?_, fun a hr ha => ?_, fun a hr ha => ?_, fun a slot hr hslot ha => ?_,
    fun a slot k hr hslot hk1 hk20 ha => ?_, fun a ha => ?_⟩
  · obtain ⟨hlive, hoff⟩ := State.isLive_of_offset (k := 0) hi hr (by simpa using ha) (by omega)
    obtain ⟨hcommand, -⟩ := State.target_of_live hlive
    exact hcommand hoff
  · obtain ⟨k, hk, hk'⟩ : ∃ k, (k = 1 ∨ k = 2) ∧ a = s.base + BitVec.ofNat 16 k :=
      ha.elim (fun h => ⟨1, .inl rfl, h⟩) fun h => ⟨2, .inr rfl, h⟩
    obtain ⟨hlive, hoff⟩ := State.isLive_of_offset hi hr hk' (by omega)
    obtain ⟨-, htarget, -⟩ := State.target_of_live hlive
    exact htarget (hoff ▸ hk)
  · obtain ⟨hlive, hoff⟩ := State.isLive_of_offset hi hr ha (by omega)
    obtain ⟨-, -, hcount, -⟩ := State.target_of_live hlive
    exact hcount hoff
  · obtain ⟨hlive, hoff⟩ := State.isLive_of_offset hi hr ha (by omega)
    obtain ⟨-, -, -, hcommand, -⟩ := State.target_of_live hlive
    have hbyte : byteOf (s.off a) = 0 := hoff ▸ byteOf_slot slot (k := 0) (by omega)
    rw [hcommand (by omega) hbyte, State.dcb_slotOf (by omega) hbyte]
  · rw [BitVec.add_assoc, ← BitVec.ofNat_add] at ha
    obtain ⟨hlive, hoff⟩ := State.isLive_of_offset hi hr ha (by omega)
    obtain ⟨-, -, -, -, hparameter⟩ := State.target_of_live hlive
    have hbyte : byteOf (s.off a) = k := hoff ▸ byteOf_slot slot (by omega)
    exact hparameter (by omega) (by omega)
  · rw [State.target_plain_iff, ← Bool.not_eq_true, livenessUnderTheInvariant s a hi]
    rintro ⟨hr, hoff⟩
    obtain hr' | hbound := ha
    · simp [hr'] at hr
    · omega

/-! ### The program RELOC -/

section Presented

variable (s : State) (a : Addr) (rest : List Input)

@[simp] theorem State.presented_base : (s.presented a rest).base = s.base := rfl
@[simp] theorem State.presented_addr : (s.presented a rest).addr = a := rfl
@[simp] theorem State.presented_inputs : (s.presented a rest).inputs = rest := rfl
@[simp] theorem State.presented_kbdStatus : (s.presented a rest).kbdStatus = s.kbdStatus := rfl
@[simp] theorem State.presented_lastDisk : (s.presented a rest).lastDisk = s.lastDisk := rfl
@[simp] theorem State.presented_kbdQueue : (s.presented a rest).kbdQueue = s.kbdQueue := rfl
@[simp] theorem State.presented_routed (b : Addr) : (s.presented a rest).routed b = s.routed b := rfl
@[simp] theorem State.presented_memRead (b : Addr) : (s.presented a rest).memRead b = s.memRead b := rfl

end Presented

theorem step_write {s : State} {a : Addr} {v : Byte} {rest : List Input}
    (hin : s.inputs = (Line.write a v).input :: rest) :
    step s = exec (decodeWrite (s.target a) v) (s.presented a rest) := step_access hin

/-- The expansion of RELOC (R97) as the three inputs that stand before the rest. -/
theorem Pseudo.inputs_reloc (h t : Addr) (rest : List Input) :
    (Pseudo.reloc t).inputs h ++ rest =
      (Line.write (h + 1#16) (t.extractLsb' 0 8)).input :: (Line.write (h + 2#16) (t.extractLsb' 8 8)).input ::
        (Line.write h 0x03#8).input :: rest := rfl

/-- A write of a relocation target byte leaves the byte there, the other routed bytes and the block as they were. -/
theorem step_write_targetByte {s : State} {a : Addr} {v : Byte} {rest : List Input} (hi : s.Inv)
    (hr : s.routed a = true) (ha : a = s.base + 1#16 ∨ a = s.base + 2#16)
    (hin : s.inputs = (Line.write a v).input :: rest) :
    ∃ u, step s = .next u ∧ u.Inv ∧ u.inputs = rest ∧ u.base = s.base ∧ (∀ b, u.routed b = s.routed b) ∧
      u.memRead a = v ∧ (∀ b, s.routed b = true → b ≠ a → u.memRead b = s.memRead b) ∧
      u.kbdStatus = s.kbdStatus ∧ u.lastDisk = s.lastDisk ∧ u.kbdQueue = s.kbdQueue := by
  obtain ⟨-, htarget, -⟩ := targetsFollowTheWindowGeometry s hi
  have hstep : step s = .next ((s.presented a rest).memWrite a v) := by
    rw [step_write hin, htarget a hr ha]
    rfl
  have hi' := hi.presented a rest
  refine ⟨_, hstep, hi'.memWrite a v, by simp, by simp, by simp, ?_, fun b hb hne => ?_, by simp, by simp, by simp⟩
  · exact State.memRead_memWrite_routed hi' hr v
  · exact (routedWritesReadBack _ a b v hi' hr).2 hb hne

/-- The echo of a header write, at its own address and at another (41_header.md R121). -/
theorem State.memRead_storeEcho_routed {s : State} (hi : s.Inv) (hr : s.routed s.addr = true) (v : Byte) :
    (s.storeEcho v).memRead s.addr = ackOf v ∧
      ∀ b, s.routed b = true → b ≠ s.addr → (s.storeEcho v).memRead b = s.memRead b := by
  have hecho := routedWritesReadBack (s.memWrite s.addr v) s.addr
  refine ⟨State.memRead_memWrite_routed (hi.memWrite _ _) (by simpa using hr) _, fun b hb hne => ?_⟩
  calc (s.storeEcho v).memRead b
      = (s.memWrite s.addr v).memRead b :=
        (hecho b _ (hi.memWrite _ _) (by simpa using hr)).2 (by simpa using hb) hne
    _ = s.memRead b := (routedWritesReadBack s s.addr b v hi hr).2 hb hne

/-- The relocation target is read from header offsets 1 and 2, low byte first (R88). -/
theorem State.relocTarget_of_bytes {s : State} {t : Addr} (hlow : s.memRead (s.base + 1#16) = t.extractLsb' 0 8)
    (hhigh : s.memRead (s.base + 2#16) = t.extractLsb' 8 8) : s.relocTarget = t := by
  have hnext : s.base + 1#16 + 1#16 = s.base + 2#16 := BitVec.add_assoc _ _ _
  rw [State.relocTarget, State.memRead16, hnext, hlow, hhigh]
  exact bytes_append t

/-- The relocate command, with the bytes of the target in place (41_header.md R125, R131). -/
theorem step_write_relocate {s : State} {t : Addr} {rest : List Input} (hi : s.Inv)
    (hr : ∀ k : Nat, k < 3 → s.routed (s.base + BitVec.ofNat 16 k) = true)
    (hlow : s.memRead (s.base + 1#16) = t.extractLsb' 0 8) (hhigh : s.memRead (s.base + 2#16) = t.extractLsb' 8 8)
    (hin : s.inputs = (Line.write s.base 0x03#8).input :: rest) :
    ∃ u, step s = .next u ∧ u.base = t ∧ u.count = 15#8 ∧
      (∀ a : Addr, u.presence.flag a = decide ((a - t).toNat < 319)) ∧ u.inputs = rest ∧ u.memRead s.base = 0x83#8 ∧
      u.kbdStatus = s.kbdStatus ∧ u.lastDisk = s.lastDisk ∧ u.kbdQueue = s.kbdQueue := by
  have hr0 : s.routed s.base = true := by simpa using hr 0 (by decide)
  have hne (k : Addr) (hk : k ≠ 0#16) : s.base + k ≠ s.base := by simpa using hk
  have hi' := hi.presented s.base rest
  obtain ⟨hself, hother⟩ := State.memRead_storeEcho_routed hi' hr0 0x03#8
  obtain ⟨hcommand, -⟩ := targetsFollowTheWindowGeometry s hi
  have htarget : ((s.presented s.base rest).storeEcho 0x03#8).relocTarget = t := by
    refine State.relocTarget_of_bytes ?_ ?_ <;> rw [State.storeEcho_base]
    · rw [← hlow]
      exact hother _ (hr 1 (by decide)) (hne 1#16 (by decide))
    · rw [← hhigh]
      exact hother _ (hr 2 (by decide)) (hne 2#16 (by decide))
  have hstep : step s = .next (((s.presented s.base rest).storeEcho 0x03#8).relocate t) := by
    rw [step_write hin, hcommand _ hr0 rfl]
    exact congrArg (fun t => Host.Outcome.next (State.relocate _ t)) htarget
  have hflag := State.relocate_flag (hi'.storeEcho 0x03#8).presence t
  exact ⟨_, hstep, rfl, rfl, hflag, by simp, hself, by simp, by simp, by simp⟩

/-- Settles O44: the two target bytes are written one after the other, the second keeping the first, and the command
then reads them back. -/
theorem relocProgramReachesItsTarget : Obligations.RelocProgramReachesItsTarget := by
  intro s target rest hi hlive hin
  rw [Pseudo.inputs_reloc] at hin
  have hr (k : Nat) (hk : k < 3) : s.routed (s.base + BitVec.ofNat 16 k) = true := State.isLive_routed (hlive k hk)
  have hne : s.base + 1#16 ≠ s.base + 2#16 := by simp
  obtain ⟨s1, hstep1, hi1, hin1, hb1, hr1, hlow1, -, hstatus1, hdisk1, hqueue1⟩ :=
    step_write_targetByte hi (hr 1 (by decide)) (.inl rfl) hin
  obtain ⟨s2, hstep2, hi2, hin2, hb2, hr2, hhigh2, hkept2, hstatus2, hdisk2, hqueue2⟩ :=
    step_write_targetByte (s := s1) hi1 (by rw [hr1]; exact hr 2 (by decide)) (.inr (by rw [hb1])) hin1
  rw [hb1] at hb2
  have hlow2 : s2.memRead (s.base + 1#16) = target.extractLsb' 0 8 := by
    rw [hkept2 _ (by rw [hr1]; exact hr 1 (by decide)) hne, hlow1]
  obtain ⟨s3, hstep3, h3⟩ := step_write_relocate (t := target) (rest := rest) hi2
    (by simpa only [hb2, hr2, hr1] using hr) (by rw [hb2, hlow2]) (by rw [hb2, hhigh2]) (by rw [hin2, hb2])
  refine ⟨s3, ?_, ?_⟩
  · rw [core_run_succ hstep1, core_run_succ hstep2, core_run_succ hstep3]
    rfl
  · simpa only [hb2, hstatus2, hdisk2, hqueue2, hstatus1, hdisk1, hqueue1] using h3

/-- Settles O1: the decoder runs on each of the 27 words. -/
theorem writtenOutWordsDecode : Obligations.WrittenOutWordsDecode := by
  unfold Obligations.WrittenOutWordsDecode
  decide

end Sys2Proof.Machine
end

section
/-! SUPPORT. Reads and single stores (40_plain_access.md, and the accesses of the header and of a DCB that are no more than
these), with the statements about them. -/

namespace Sys2Proof.Machine

/-! ### One write as a step -/

/-- A write changes memory alone (20_memory.md R54). -/
theorem State.memWrite_frame (s : State) (a : Addr) (v : Byte) :
    s.memWrite a v = { s with mem := (s.memWrite a v).mem } := by
  unfold State.memWrite
  split <;> rfl

theorem State.memWrite_storesOnlyAt (s : State) (a : Addr) (v : Byte) : s.StoresOnlyAt (s.memWrite a v) a :=
  fun _ hn => State.memWrite_get_ne s v hn

/-- The byte that a write reaches holds the value, unless it is ROM (R54). -/
theorem State.memWrite_get_self {s : State} (hm : s.mem.wf = true) {a : Addr}
    (hk : (s.writeHandle a).region.kind ≠ .rom) (v : Byte) : (s.memWrite a v).mem.get (s.writePhys a) = v := by
  rw [State.memWrite_get hm, if_pos ⟨rfl, hk⟩]

/-- Taking the access off the pending inputs changes nothing that a write looks at. -/
theorem State.presented_memWrite (s : State) (a b : Addr) (rest : List Input) (v : Byte) :
    (s.presented a rest).memWrite b v = (s.memWrite b v).presented a rest := by
  unfold State.memWrite
  rw [apply_ite (fun t : State => t.presented a rest)]
  rfl

/-! ### What the operations do -/

/-- Every read but the keyboard's answers the byte at the address on the port (R110, R120, R150, R151). -/
theorem exec_memoryRead {i : Instr}
    (h : i = .plainRd ∨ i = .dcbParRd ∨ (∃ c, i = .hdrRd c) ∨ ∃ dev, i = .dcbCmdRd dev) (s : State) :
    exec i s = .next (s.giveData (s.memRead s.addr)) := by
  obtain rfl | rfl | ⟨c, rfl⟩ | ⟨dev, rfl⟩ := h <;> rfl

/-- The five writes that only store are one write at the address on the port (R111, R122, R127, R129, R152). -/
theorem exec_singleStore {i : Instr} {v : Byte}
    (h : i = .plainWr v ∨ (i = .hdrNop ∧ v = 0x00#8) ∨ i = .hdrHigh v ∨ i = .hdrParamWr v ∨ i = .dcbParWr v) (s : State) :
    exec i s = .next (s.memWrite s.addr v) := by
  obtain rfl | ⟨rfl, rfl⟩ | rfl | rfl | rfl := h <;> rfl

/-- An access that is not live is a plain one, whatever its byte is (R36, R83). -/
theorem State.operation_of_not_live {s : State} {x : Access} (h : s.isLive x.addr = false) :
    s.operation x = if x.we then .plainWr x.data else .plainRd := by
  rw [State.operation, (s.target_plain_iff x.addr).mpr h]
  rfl

/-! ### The statements -/

/-- Settles O35: the words are packed ones, and each of the five operations is one write at the address on the port. -/
theorem singleStoreWrites : Obligations.SingleStoreWrites := by
  refine ⟨fun v => ⟨decode_packed_write .plain v, decode_packed_write (.hdr .target) v, decode_packed_write .dcbPar v,
    decode_packed_write (.hdr .command) 0x00#8, fun hhigh => ?_⟩, fun s i v hm hi => ?_⟩
  · rw [← decodeHeaderCommand_of_high hhigh]
    exact decode_packed_write (.hdr .command) v
  · exact ⟨_, exec_singleStore hi s, s.memWrite_frame s.addr v, s.memWrite_storesOnlyAt s.addr v,
      fun hk => State.memWrite_get_self hm hk v⟩

/-- Settles O36: the step runs the plain operation of the access in the state that has taken it off. -/
theorem accessesThatAreNotLiveStartNothing : Obligations.AccessesThatAreNotLiveStartNothing := by
  intro s x rest hin hlive
  have hstep := step_access hin
  rw [State.operation_of_not_live hlive] at hstep
  cases hwe : x.we with
  | true =>
    have hwrite : step s = .next ((s.memWrite x.addr x.data).presented x.addr rest) := by
      rw [hstep, hwe, ← State.presented_memWrite]
      rfl
    refine ⟨_, hwrite, fun _ => ⟨?_, rfl⟩, nofun⟩
    exact congrArg (State.presented · x.addr rest) (s.memWrite_frame x.addr x.data)
  | false =>
    rw [hwe] at hstep
    exact ⟨_, hstep, nofun, fun _ => rfl⟩

/-- Settles O34: the words are the packed ones of the eleven read targets, and each read puts its byte on the port. -/
theorem readsReturnAByteAndChangeNothing : Obligations.ReadsReturnAByteAndChangeNothing := by
  refine ⟨⟨decode_packed_read .plain, decode_packed_read (.hdr .command), decode_packed_read (.hdr .target),
    decode_packed_read (.hdr .count), decode_packed_read .dcbPar, decode_packed_read (.dcbCmd .prn),
    decode_packed_read (.dcbCmd .dsk), decode_packed_read (.dcbCmd .tap), decode_packed_read (.dcbCmd .rpt),
    decode_packed_read (.dcbCmd .unk), decode_packed_read (.dcbCmd .kbd)⟩, fun s => ⟨fun i hi => ?_, rfl⟩⟩
  exact exec_memoryRead hi s

end Sys2Proof.Machine
end

section
/-! SUPPORT. Writes to the bus header (41_header.md): the commands that echo, the count and the relocation, with the
statements about them. -/

namespace Sys2Proof.Machine

/-! ### The echoed store (R121) -/

/-- An address whose target is not plain memory is live, and so it is routed (R61, R83). -/
theorem State.routed_of_target {s : State} {a : Addr} (h : s.target a ≠ .plain) : s.routed a = true :=
  State.isLive_routed (State.target_live h)

theorem State.storeEcho_frame (s : State) (v : Byte) : s.storeEcho v = { s with mem := (s.storeEcho v).mem } := by
  calc s.storeEcho v
      = { s.memWrite s.addr v with mem := (s.storeEcho v).mem } := State.memWrite_frame _ _ _
    _ = { s with mem := (s.storeEcho v).mem } :=
        congrArg (fun u : State => { u with mem := (s.storeEcho v).mem }) (s.memWrite_frame s.addr v)

theorem State.storeEcho_storesOnlyAt (s : State) (v : Byte) : s.StoresOnlyAt (s.storeEcho v) s.addr :=
  fun _ hn => s.storeEcho_get_ne v hn

/-- At such an address the echo is what then reads back. -/
theorem State.memRead_storeEcho_target {s : State} (hi : s.Inv) (h : s.target s.addr ≠ .plain) (v : Byte) :
    (s.storeEcho v).memRead s.addr = ackOf v :=
  (State.memRead_storeEcho_routed hi (State.routed_of_target h) v).1

/-- A byte at another place of its page is not touched, whatever the page maps are. -/
theorem State.memRead_storeEcho_pofs (s : State) {b : Addr} (v : Byte) (h : pofs b ≠ pofs s.addr) :
    (s.storeEcho v).memRead b = s.memRead b := by
  unfold State.storeEcho
  rw [State.memRead_memWrite_pofs _ _ h, State.memRead_memWrite_pofs _ _ h]

/-! ### A register beside the store

Each update takes a state `u` that differs from `s` in memory alone to one that differs in memory and its registers. -/

theorem State.StoresOnlyAt.of_mem_eq {s u w : State} {a : Addr} (h : s.StoresOnlyAt u a) (hmem : w.mem = u.mem) :
    s.StoresOnlyAt w a := by
  intro n hn
  rw [hmem]
  exact h n hn

theorem State.setCount_frame {s u : State} (h : u = { s with mem := u.mem }) (c : Byte) :
    u.setCount c = { s with mem := (u.setCount c).mem, count := (u.setCount c).count } :=
  congrArg (State.setCount · c) h

theorem State.relocate_frame {s u : State} (h : u = { s with mem := u.mem }) (t : Addr) :
    u.relocate t =
      { s with
        mem := (u.relocate t).mem
        base := (u.relocate t).base
        presence := (u.relocate t).presence
        count := 15#8 } :=
  congrArg (fun w : State => { w with base := t, presence := (u.relocate t).presence, count := 15#8 }) h

/-! ### The relocation (R131) -/

/-- The target is little-endian at header offsets 1 and 2 (R88). -/
theorem State.relocTarget_toNat (s : State) :
    s.relocTarget.toNat = 256 * (s.memRead (s.base + 2#16)).toNat + (s.memRead (s.base + 1#16)).toNat := by
  have hnext : s.base + 1#16 + 1#16 = s.base + 2#16 := BitVec.add_assoc _ _ _
  rw [State.relocTarget, State.memRead16, hnext, pair_toNat]

/-- The target read after the echo at the header command byte is the one before (R125). -/
theorem State.relocTarget_storeEcho {s : State} (h : s.addr = s.base) (v : Byte) :
    (s.storeEcho v).relocTarget = s.relocTarget := by
  have hkept (k : Addr) (h0 : 0 < k.toNat) (h1 : k.toNat < 0x2000) :
      (s.storeEcho v).memRead (s.base + k) = s.memRead (s.base + k) :=
    s.memRead_storeEcho_pofs v (h ▸ pofs_add_ne h0 h1)
  apply BitVec.eq_of_toNat_eq
  rw [State.relocTarget_toNat, State.relocTarget_toNat, State.storeEcho_base, hkept 2#16 (by decide) (by decide),
    hkept 1#16 (by decide) (by decide)]

/-- After a relocation the flags are those of the new window, whatever window they were of, so that a second one to the
same target finds and leaves them there. -/
theorem State.relocate_presence_idem {s : State} (hi : s.Inv) (t : Addr) :
    ((s.relocate t).relocate t).presence = (s.relocate t).presence :=
  Presence.ext_flag fun a =>
    (State.relocate_flag (hi.relocate t).presence t a).trans (State.relocate_flag hi.presence t a).symm

/-- With 15 slots armed the liveness bound is the window's end (R61, R131). -/
theorem State.isLive_relocate_iff {s : State} (hi : s.Inv) (t a : Addr) :
    (s.relocate t).isLive a = true ↔ s.routed a = true ∧ (a - t).toNat < 319 := by
  rw [livenessUnderTheInvariant _ a (hi.relocate t), State.relocate_routed]
  rfl

/-! ### The statements -/

/-- Settles O37: each sync command is one echoed store at the address on the port. -/
theorem syncCommandsEcho : Obligations.SyncCommandsEcho := by
  refine ⟨decode_packed_write (.hdr .command) 0x01#8, decode_packed_write (.hdr .command) 0x02#8, fun s hi ht => ?_⟩
  have hecho := State.memRead_storeEcho_target hi (by simp [ht])
  exact ⟨⟨s.storeEcho 0x01#8, rfl, s.storeEcho_frame 0x01#8, s.storeEcho_storesOnlyAt 0x01#8, hecho 0x01#8⟩,
    ⟨s.storeEcho 0x02#8, rfl, s.storeEcho_frame 0x02#8, s.storeEcho_storesOnlyAt 0x02#8, hecho 0x02#8⟩⟩

/-- Settles O38: the value is stored without an echo, and then logged. -/
theorem unimplementedHeaderCommandIsLogged : Obligations.UnimplementedHeaderCommandIsLogged := by
  intro s v hi ht hlow hhigh
  have hr : s.routed s.addr = true := State.routed_of_target (by simp [ht])
  refine ⟨?_, (s.memWrite s.addr v).logEvent (.unimplementedHeaderCommand v), rfl,
    (s.memWrite_storesOnlyAt s.addr v).of_mem_eq (State.logEvent_mem _ _), State.memRead_memWrite_routed hi hr v, ?_⟩
  · rw [← decodeHeaderCommand_of_unimpl hlow hhigh]
    exact decode_packed_write (.hdr .command) v
  · exact congrArg (State.logEvent · (.unimplementedHeaderCommand v)) (s.memWrite_frame s.addr v)

/-- Settles O39: the echoed store, and the count capped at 15 beside it. -/
theorem countWriteEchoesAndLoads : Obligations.CountWriteEchoesAndLoads := by
  intro s v hi ht
  refine ⟨decode_packed_write (.hdr .count) v, (s.storeEcho v).setCount (capCount v), rfl,
    (s.storeEcho_storesOnlyAt v).of_mem_eq (State.setCount_mem _ _), ?_, capCount_toNat v,
    State.setCount_frame (s.storeEcho_frame v) (capCount v)⟩
  rw [State.setCount_memRead]
  exact State.memRead_storeEcho_target hi (by simp [ht]) v

/-- Settles O41: the echo goes to the old base, where the command byte is, and leaves the two target bytes alone. -/
theorem relocateMovesTheWindow : Obligations.RelocateMovesTheWindow := by
  refine ⟨decode_packed_write (.hdr .command) 0x03#8, fun s hi ht => ?_⟩
  have hbase : s.addr = s.base := State.target_command ht
  have hrun : exec .hdrRelocate s = .next ((s.storeEcho 0x03#8).relocate s.relocTarget) := by
    rw [← State.relocTarget_storeEcho hbase 0x03#8]
    rfl
  refine ⟨_, hrun, s.relocTarget_toNat, State.relocate_flag (hi.storeEcho 0x03#8).presence s.relocTarget, ?_, ?_,
    State.relocate_frame (s.storeEcho_frame 0x03#8) s.relocTarget⟩
  · rw [← hbase, State.relocate_memRead]
    exact State.memRead_storeEcho_target hi (by simp [ht]) 0x03#8
  · rw [← hbase]
    exact (s.storeEcho_storesOnlyAt 0x03#8).of_mem_eq (State.relocate_mem _ _)

/-- Settles O42: base and count are set to the same values again, and the presence table is the same. -/
theorem relocationIsIdempotent : Obligations.RelocationIsIdempotent := by
  intro s t hi
  exact congrArg (fun p => { s.relocate t with presence := p }) (State.relocate_presence_idem hi t)

/-- Settles O43: what is live after a relocation is the routed part of the new window, and no more. -/
theorem oldWindowIsNotLive : Obligations.OldWindowIsNotLive := by
  intro s t a hi
  have hlive := State.isLive_relocate_iff hi t a
  refine ⟨fun _ hout => ?_, fun hin hr => hlive.mpr ⟨hr, hin⟩⟩
  rw [← Bool.not_eq_true, hlive]
  exact fun ⟨_, hin⟩ => absurd hin (Nat.not_lt.mpr hout)

end Sys2Proof.Machine
end

section
/-! SUPPORT. The dispatch of a DCB command (42_dispatch.md): which device an identity names, and the command writes that
reach none, with the statements about them. -/

namespace Sys2Proof.Machine

/-! ### The identities of R90 -/

/-- The identities with a device of their own: the 11 of the table of R90, which R158 counts as 13 (log 14). -/
def tabledIds : List (BitVec 12) :=
  [0x001#12, 0x002#12, 0x004#12, 0x005#12, 0x006#12, 0x007#12, 0x008#12, 0x009#12, 0x018#12, 0x019#12, 0x052#12]

theorem route_of_not_tabled {id : BitVec 12} (h : id ∉ tabledIds) : route id = .unknown := by
  simp only [tabledIds, List.mem_cons, List.not_mem_nil, or_false, not_or] at h
  simp [route, h]

theorem toNat_mem_tabled_iff (id : BitVec 12) :
    id.toNat ∈ [0x01, 0x02, 0x04, 0x05, 0x06, 0x07, 0x08, 0x09, 0x18, 0x19, 0x52] ↔ id ∈ tabledIds :=
  List.mem_map_of_injective (l := tabledIds) fun _ _ => BitVec.eq_of_toNat_eq

/-- Settles O17: the tabled identities one by one; any other is Unknown, and its number is none of the table's. -/
theorem identityRoutesAsDocumented : Obligations.IdentityRoutesAsDocumented := by
  intro id
  by_cases hid : id ∈ tabledIds
  · revert id
    exact List.forall_iff_forall_mem.mp (by decide)
  · have hnum := (toNat_mem_tabled_iff id).not.mpr hid
    rw [route_of_not_tabled hid]
    simp only [List.mem_cons, List.not_mem_nil, or_false, not_or, reduceCtorEq, false_iff, true_iff] at hnum ⊢
    exact ⟨by omega, by omega, fun k => by omega, fun k => by omega, by omega, hnum⟩

/-! ### Routing at the step -/

/-- Settles O56: a live command byte lies in a slot below the count, so its target is the class of its identity. -/
theorem routingIsByIdentityAlone : Obligations.RoutingIsByIdentityAlone := by
  intro s a v slot rest hi hlive hslot ha hin hlow hhigh
  obtain ⟨hr, hbound⟩ := (livenessUnderTheInvariant s a hi).mp hlive
  have hoff : (a - s.base).toNat = 4 + 21 * slot := by
    rw [ha]
    exact s.off_base_add (by omega)
  obtain ⟨-, -, -, hcommand, -⟩ := targetsFollowTheWindowGeometry s hi
  have htarget : s.target a = .dcbCmd (route (s.idAt a)).cls := hcommand a slot hr (by omega) ha
  rw [step_write hin, htarget, decodeWrite_of_command _ ((isCommand_iff_toNat v).mpr ⟨hlow, hhigh⟩)]
  rfl

/-! ### The store of a command (R153, R155) -/

/-- A write after an update of memory alone is again one. -/
theorem State.memWrite_frame_of_frame {s u : State} (h : u = { s with mem := u.mem }) (a : Addr) (v : Byte) :
    u.memWrite a v = { s with mem := (u.memWrite a v).mem } :=
  (u.memWrite_frame a v).trans (congrArg (fun w : State => { w with mem := (u.memWrite a v).mem }) h)

theorem State.storeCommand_frame (s : State) (d : Addr) (v : Byte) :
    s.storeCommand d v = { s with mem := (s.storeCommand d v).mem } := by
  unfold State.storeCommand
  split
  · exact State.memWrite_frame_of_frame (s.memWrite_frame d v) d _
  · exact s.memWrite_frame d v

theorem State.storeCommand_storesOnlyAt (s : State) (d : Addr) (v : Byte) : s.StoresOnlyAt (s.storeCommand d v) d :=
  fun _ hn => s.storeCommand_get_ne v hn

/-! ### A status byte written over the command

These hold for whatever byte `r` a device leaves in its command byte. -/

theorem State.storeCommand_memWrite_frame (s : State) (d : Addr) (v r : Byte) :
    (s.storeCommand d v).memWrite d r = { s with mem := ((s.storeCommand d v).memWrite d r).mem } :=
  State.memWrite_frame_of_frame (s.storeCommand_frame d v) d r

theorem State.storeCommand_memWrite_storesOnlyAt (s : State) (d : Addr) (v r : Byte) :
    s.StoresOnlyAt ((s.storeCommand d v).memWrite d r) d := by
  intro n hn
  rw [State.memWrite_get_ne _ r (by simpa using hn), s.storeCommand_get_ne v hn]

theorem State.memRead_storeCommand_memWrite {s : State} (hi : s.Inv) {d : Addr} (hr : s.routed d = true) (v r : Byte) :
    ((s.storeCommand d v).memWrite d r).memRead d = r :=
  State.memRead_memWrite_routed (hi.storeCommand d v) (by simpa using hr) r

/-! ### The words -/

/-- The fields W and REG of a command write (R84, R85) are the digit 0xC. -/
theorem packCommand_dcbCmd (dev : DevClass) (v : Byte) :
    packCommand true (.dcbCmd dev) v = 0xC#4 ++ dev.bits ++ v :=
  congrArg (· ++ dev.bits ++ v) (by decide : BitVec.ofBool true ++ 4#3 = 0xC#4)

/-- The word of an ignored value, or of an undefined keyboard command, decodes to it (R92). -/
theorem decodeWrite_of_storeOnly {i : Instr} {dev : DevClass} {v : Byte}
    (h : (i = .dcbCmdIgnore dev v ∧ (v.toNat = 0 ∨ 0x80 ≤ v.toNat)) ∨
      (i = .kbdUndef v ∧ dev = .kbd ∧ 0x05 ≤ v.toNat ∧ v.toNat < 0x80)) :
    decodeWrite (.dcbCmd dev) v = i := by
  obtain ⟨rfl, hv⟩ | ⟨rfl, rfl, hlow, hhigh⟩ := h
  · exact decodeWrite_of_ignored dev (hv.imp_left fun h0 => BitVec.eq_of_toNat_eq h0)
  · rw [decodeWrite_of_command .kbd ((isCommand_iff_toNat v).mpr ⟨by omega, hhigh⟩),
      decodeDeviceCommand_of_kbdUndef hlow]

/-! ### The statements about commands that reach no device -/

/-- Settles O45: both operations are the store of a command and no more. -/
theorem ignoredCommandsOnlyStoreAndEcho : Obligations.IgnoredCommandsOnlyStoreAndEcho := by
  intro s i dev v hi ht hcase
  have hr : s.routed s.addr = true := State.routed_of_target (by simp [ht])
  have hrun : exec i s = .next (s.storeCommand s.addr v) := by
    obtain ⟨rfl, -⟩ | ⟨rfl, -⟩ := hcase <;> rfl
  refine ⟨?_, _, hrun, s.storeCommand_frame s.addr v, s.storeCommand_storesOnlyAt s.addr v,
    State.memRead_storeCommand_routed hi hr v⟩
  rw [← decodeWrite_of_storeOnly hcase, ← packCommand_dcbCmd]
  exact decode_packed_write (.dcbCmd dev) v

/-- Settles O46: the NAK is written over the stored command, and the identity logged is the one before the store. -/
theorem unknownDeviceIsNaked : Obligations.UnknownDeviceIsNaked := by
  intro s v hi ht hlow hhigh
  have hr : s.routed s.addr = true := State.routed_of_target (by simp [ht])
  have hrun : exec (.unkNak v) s =
      .next (((s.storeCommand s.addr v).memWrite s.addr nakByte).logEvent (.unknownDevice (s.idAt s.addr))) := by
    rw [← s.idAt_storeCommand s.addr v]
    rfl
  refine ⟨decode_packed_command .unk ((isCommand_iff_toNat v).mpr ⟨hlow, hhigh⟩), _, hrun,
    (s.storeCommand_memWrite_storesOnlyAt s.addr v nakByte).of_mem_eq (State.logEvent_mem _ _), ?_,
    congrArg (State.logEvent · (.unknownDevice (s.idAt s.addr))) (s.storeCommand_memWrite_frame s.addr v nakByte)⟩
  rw [State.logEvent_memRead]
  exact State.memRead_storeCommand_memWrite hi hr v nakByte

end Sys2Proof.Machine
end

section
/-! SUPPORT. The devices (43_devices.md): the keyboard's answers and its buffer read, the printer, and the commands that
call the media subsystem, with the statements about them and about KEY. -/

namespace Sys2Proof.Machine

/-! ### A run of writes -/

theorem State.memWrites_frame_of_frame {s u : State} (h : u = { s with mem := u.mem }) (ws : List (Addr × Byte)) :
    u.memWrites ws = { s with mem := (u.memWrites ws).mem } := by
  induction ws generalizing u with
  | nil => exact h
  | cons w ws ih => exact ih (State.memWrite_frame_of_frame h w.1 w.2)

/-- An update that a single write commutes with commutes with a run of writes. -/
theorem State.memWrites_comm {f : State → State} (hf : ∀ u a v, (f u).memWrite a v = f (u.memWrite a v)) (s : State)
    (ws : List (Addr × Byte)) : (f s).memWrites ws = f (s.memWrites ws) := by
  induction ws generalizing s with
  | nil => rfl
  | cons w ws ih => rw [State.memWrites, hf, ih, State.memWrites]

/-- Memory plays no part in which byte an address writes. -/
theorem State.writePhys_of_frame {s u : State} (h : u = { s with mem := u.mem }) (a : Addr) :
    u.writePhys a = s.writePhys a := by
  rw [h]
  rfl

theorem State.StoresOnlyAmong.of_mem_eq {s u w : State} {as : List Addr} (h : s.StoresOnlyAmong u as)
    (hmem : w.mem = u.mem) : s.StoresOnlyAmong w as := by
  intro n hn
  rw [hmem]
  exact h n hn

theorem State.StoresOnlyAmong.memWrite {s u : State} {as : List Addr} (h : s.StoresOnlyAmong u as)
    (hu : u = { s with mem := u.mem }) {a : Addr} (ha : a ∈ as) (v : Byte) : s.StoresOnlyAmong (u.memWrite a v) as := by
  intro n hn
  rw [State.memWrite_get_ne u v (.inl (by rw [State.writePhys_of_frame hu]; exact hn a ha)), h n hn]

/-- The store of a command and the writes of its device change the command byte and the bytes of those writes alone. -/
theorem State.storeCommand_memWrites_storesOnlyAmong (s : State) (d : Addr) (v : Byte) (ws : List (Addr × Byte)) :
    s.StoresOnlyAmong ((s.storeCommand d v).memWrites ws) (d :: ws.map Prod.fst) := by
  intro n hn
  obtain ⟨hd, hws⟩ := List.forall_mem_cons.mp hn
  rw [State.memWrites_get_ne _ ws fun w hw => by simpa using hws w.1 (List.mem_map_of_mem hw),
    s.storeCommand_get_ne v (.inl hd)]

/-- Writes to other bytes leave a routed one as it was. -/
theorem State.memRead_memWrites_of_ne {s : State} (hi : s.Inv) {a : Addr} (ha : s.routed a = true)
    {ws : List (Addr × Byte)} (h : ∀ w ∈ ws, s.writePhys w.1 ≠ s.writePhys a) :
    (s.memWrites ws).memRead a = s.memRead a := by
  obtain ⟨hphys, -⟩ := State.routed_phys hi ha
  unfold State.memRead
  rw [State.memWrites_readPhys, hphys]
  exact State.memWrites_get_ne s ws fun w hw => (h w hw).symm

/-- Of writes to routed addresses, no two to the same one, each reads back. -/
theorem State.memRead_memWrites_of_mem {s : State} (hi : s.Inv) {ws : List (Addr × Byte)}
    (hr : ∀ w ∈ ws, s.routed w.1 = true) (hnodup : (ws.map Prod.fst).Nodup) {a : Addr} {v : Byte} (h : (a, v) ∈ ws) :
    (s.memWrites ws).memRead a = v := by
  induction ws generalizing s with
  | nil => cases h
  | cons w ws ih =>
    obtain ⟨hfirst, hnodup⟩ := List.nodup_cons.mp hnodup
    obtain ⟨hrw, hrws⟩ := List.forall_mem_cons.mp hr
    rw [State.memWrites]
    obtain rfl | h := List.mem_cons.mp h
    · have hother : ∀ w ∈ ws, s.writePhys w.1 ≠ s.writePhys a := fun w hw => by
        rw [← (State.routed_phys hi (hrws w hw)).1]
        exact State.readPhys_ne_writePhys hi hrw (hrws w hw) fun e => hfirst (List.mem_map.mpr ⟨w, hw, e⟩)
      rw [State.memRead_memWrites_of_ne (hi.memWrite a v) (by simpa using hrw) (by simpa using hother)]
      exact State.memRead_memWrite_routed hi hrw v
    · exact ih (hi.memWrite _ _) (by simpa using hrws) hnodup h

/-! ### The answers of the keyboard to sync and probe (R171, R172) -/

/-- An operation that stores its command, leaves `r` in the command byte and sets the keyboard ready. -/
theorem exec_keyboardReady {s : State} {i : Instr} {v r : Byte} (hi : s.Inv) (hr : s.routed s.addr = true)
    (hrun : exec i s = .next (((s.storeCommand s.addr v).memWrite s.addr r).setKbdStatus kbdReady)) :
    ∃ t, exec i s = .next t ∧ s.StoresOnlyAt t s.addr ∧ t.memRead s.addr = r ∧
      t = { s with mem := t.mem, kbdStatus := 0x80#8 } := by
  refine ⟨_, hrun, (s.storeCommand_memWrite_storesOnlyAt s.addr v r).of_mem_eq (State.setKbdStatus_mem _ _), ?_,
    congrArg (State.setKbdStatus · kbdReady) (s.storeCommand_memWrite_frame s.addr v r)⟩
  rw [State.setKbdStatus_memRead]
  exact State.memRead_storeCommand_memWrite hi hr v r

/-! ### The writes of the keyboard fill (R174) -/

theorem fillWrites_map_fst (p : Addr) (q : List Byte) (n : Nat) :
    (fillWrites p q n).map Prod.fst = (List.range (min n q.length)).map fun i => p + BitVec.ofNat 16 i := by
  unfold fillWrites
  rw [List.map_map, ← List.length_take, List.range_eq_range', ← List.zipIdx_map_snd 0, List.map_map]
  rfl

theorem mem_fillWrites {p : Addr} {q : List Byte} {n j : Nat} (hn : j < n) (hq : j < q.length) :
    (p + BitVec.ofNat 16 j, q[j]) ∈ fillWrites p q n := by
  refine List.mem_map.mpr ⟨(q[j], j), ?_, rfl⟩
  rw [List.mk_mem_zipIdx_iff_getElem?, List.getElem?_take_of_lt hn, List.getElem?_eq_getElem hq]

/-- A count is a 16-bit value, so that the fill does not come round to its first address. -/
theorem fillWrites_nodup (p : Addr) (q : List Byte) {n : Nat} (hn : n < 65536) :
    ((fillWrites p q n).map Prod.fst).Nodup := by
  rw [fillWrites_map_fst]
  refine List.nodup_range.map_on fun i hi j hj e => ?_
  have hmod := congrArg BitVec.toNat (BitVec.add_right_inj p |>.mp e)
  rw [List.mem_range] at hi hj
  rw [BitVec.toNat_ofNat, BitVec.toNat_ofNat] at hmod
  omega

/-! ### The keyboard read (R174) -/

/-- A read command after the fill: the command stored, the keys in the buffer. -/
def State.keysStored (s : State) : State :=
  (s.storeCommand s.addr 0x04#8).memWrites
    (fillWrites (s.kbdPtr s.addr) s.kbdQueue (s.kbdCnt s.addr).toNat)

/-- A read command as to memory: the command byte is cleared when as many keys were queued as wanted. -/
def State.keysRead (s : State) : State :=
  if (s.kbdCnt s.addr).toNat ≤ s.kbdQueue.length then s.keysStored.memWrite s.addr 0x00#8 else s.keysStored

/-- The keyboard read is its stores, with the status and the queue set beside them. -/
theorem execKbdReadbuf_keysRead {s : State} (hi : s.Inv) :
    execKbdReadbuf s =
      .next ((s.keysRead.setKbdStatus
          (if (s.kbdCnt s.addr).toNat ≤ s.kbdQueue.length then kbdReady else kbdShort)).setQueue
        (s.kbdQueue.drop (s.kbdCnt s.addr).toNat)) := by
  obtain ⟨hptr, hcnt⟩ := State.kbdParams_storeCommand hi s.addr 0x04#8
  rw [execKbdReadbuf_eq]
  unfold State.keysRead State.filled
  dsimp only
  rw [hptr, hcnt, State.storeCommand_kbdQueue]
  split_ifs
  · rw [State.setKbdStatus_memWrite, State.setQueue_memWrite]
    rfl
  · rfl

theorem State.keysStored_frame (s : State) : s.keysStored = { s with mem := s.keysStored.mem } :=
  State.memWrites_frame_of_frame (s.storeCommand_frame s.addr 0x04#8) _

theorem State.keysRead_frame (s : State) : s.keysRead = { s with mem := s.keysRead.mem } := by
  unfold State.keysRead
  split
  · exact State.memWrite_frame_of_frame s.keysStored_frame _ _
  · exact s.keysStored_frame

@[simp] theorem State.keysStored_routed (s : State) (b : Addr) : s.keysStored.routed b = s.routed b := by
  simp [State.keysStored]

theorem State.keysStored_inv {s : State} (hi : s.Inv) : s.keysStored.Inv := (hi.storeCommand _ _).memWrites _

theorem State.keysRead_storesOnlyAmong (s : State) :
    s.StoresOnlyAmong s.keysRead
      (s.addr :: (List.range (min (s.kbdCnt s.addr).toNat s.kbdQueue.length)).map
        fun i => s.kbdPtr s.addr + BitVec.ofNat 16 i) := by
  rw [← fillWrites_map_fst]
  have hstored := s.storeCommand_memWrites_storesOnlyAmong s.addr 0x04#8
    (fillWrites (s.kbdPtr s.addr) s.kbdQueue (s.kbdCnt s.addr).toNat)
  unfold State.keysRead
  split
  · exact State.StoresOnlyAmong.memWrite hstored s.keysStored_frame List.mem_cons_self _
  · exact hstored

/-- Where no key of the buffer falls on the command byte, the fill leaves the command there. -/
theorem State.memRead_keysStored_command {s : State} (hi : s.Inv) (hr : s.routed s.addr = true)
    (hclear : ∀ i : Nat, i < s.kbdQueue.length →
      s.writePhys (s.kbdPtr s.addr + BitVec.ofNat 16 i) ≠ s.writePhys s.addr) :
    s.keysStored.memRead s.addr = (s.storeCommand s.addr 0x04#8).memRead s.addr := by
  refine State.memRead_memWrites_of_ne (hi.storeCommand _ _) (by simpa using hr) fun w hw => ?_
  obtain ⟨i, -, hlt, rfl⟩ := fillWrites_mem hw
  simpa using hclear i hlt

/-- A key delivered to a routed buffer reads back, unless the clear of the command byte falls on it. -/
theorem State.memRead_keysRead {s : State} (hi : s.Inv) (hr : s.routed s.addr = true) {j : Nat}
    (hbuffer : ∀ i : Nat, i < (s.kbdCnt s.addr).toNat → i < s.kbdQueue.length →
      s.routed (s.kbdPtr s.addr + BitVec.ofNat 16 i) = true)
    (hj : j < (s.kbdCnt s.addr).toNat) (hne : s.kbdPtr s.addr + BitVec.ofNat 16 j ≠ s.addr) (hq : j < s.kbdQueue.length) :
    s.keysRead.memRead (s.kbdPtr s.addr + BitVec.ofNat 16 j) = s.kbdQueue[j] := by
  have hfill : s.keysStored.memRead (s.kbdPtr s.addr + BitVec.ofNat 16 j) = s.kbdQueue[j] := by
    refine State.memRead_memWrites_of_mem (hi.storeCommand _ _) (fun w hw => ?_)
      (fillWrites_nodup _ _ (s.kbdCnt s.addr).isLt) (mem_fillWrites hj hq)
    obtain ⟨i, hlt, hlen, rfl⟩ := fillWrites_mem hw
    simpa using hbuffer i (by omega) hlen
  unfold State.keysRead
  split
  · rw [← hfill]
    exact (routedWritesReadBack _ s.addr _ _ (State.keysStored_inv hi) (by simpa using hr)).2
      (by simpa using hbuffer j hj hq) hne
  · exact hfill

/-! ### Commands that call the media subsystem (R180, R181, R183) -/

theorem State.setLastDisk_memWrite (s : State) (k : Byte) (a : Addr) (v : Byte) :
    (s.setLastDisk k).memWrite a v = (s.memWrite a v).setLastDisk k := by
  unfold State.memWrite
  rw [apply_ite (State.setLastDisk · k)]
  rfl

theorem State.requestMedia_memWrite (s : State) (r : MediaRequest) (a : Addr) (v : Byte) :
    (s.requestMedia r).memWrite a v = (s.memWrite a v).requestMedia r := by
  unfold State.memWrite
  rw [apply_ite (State.requestMedia · r)]
  rfl

theorem State.requestMedia_frame {s u : State} (h : u = { s with mem := u.mem }) (r : MediaRequest) :
    u.requestMedia r = { s with mem := (u.requestMedia r).mem, mediaRequests := s.mediaRequests ++ [r] } :=
  congrArg (State.requestMedia · r) h

theorem State.setLastDisk_frame {s u : State} {rs : List MediaRequest}
    (h : u = { s with mem := u.mem, mediaRequests := rs }) (k : Byte) :
    u.setLastDisk k =
      { s with mem := (u.setLastDisk k).mem, lastDisk := (u.setLastDisk k).lastDisk, mediaRequests := rs } :=
  congrArg (State.setLastDisk · k) h

/-- A media command as to memory: the command stored, the writes of the media subsystem, the acknowledge. -/
def State.mediaStores (s : State) (kind : MediaKind) (i : Fin 4) (v : Byte) : State :=
  ((s.storeCommand s.addr v).memWrites (s.mediaReply kind i v)).memWrite s.addr (ackOf v)

/-- A media command is its stores, with one request beside them. -/
theorem State.storeCommand_media_ack (s : State) (kind : MediaKind) (i : Fin 4) (v : Byte) :
    ((s.storeCommand s.addr v).media kind i v s.addr).ack s.addr v =
      (s.mediaStores kind i v).requestMedia { kind := kind, index := i, cmd := v, dcb := s.addr } := by
  unfold State.media State.ack State.mediaStores State.mediaReply
  rw [State.memWrites_comm fun u => u.requestMedia_memWrite _, State.requestMedia_memWrite, State.storeCommand_maps]

/-- The cached disk plays no part in a media call. -/
theorem State.setLastDisk_media_ack (s : State) (k : Byte) (kind : MediaKind) (i : Fin 4) (v : Byte) (d : Addr) :
    ((s.setLastDisk k).media kind i v d).ack d v = ((s.media kind i v d).ack d v).setLastDisk k := by
  unfold State.media State.ack
  rw [← State.setLastDisk_memWrite, ← State.memWrites_comm fun u => u.setLastDisk_memWrite k]
  rfl

theorem execDskCmd_eq (s : State) (v : Byte) :
    execDskCmd v s =
      .next (((s.mediaStores .disk (diskIndex (s.idAt s.addr)) v).requestMedia
          { kind := .disk, index := diskIndex (s.idAt s.addr), cmd := v, dcb := s.addr }).setLastDisk
        (BitVec.ofNat 8 (diskIndex (s.idAt s.addr)).val)) := by
  unfold execDskCmd
  dsimp only
  rw [State.idAt_storeCommand, State.setLastDisk_media_ack, State.storeCommand_media_ack]

theorem execTapCmd_eq (s : State) (v : Byte) :
    execTapCmd v s =
      .next ((s.mediaStores .tape (tapeIndex (s.idAt s.addr)) v).requestMedia
        { kind := .tape, index := tapeIndex (s.idAt s.addr), cmd := v, dcb := s.addr }) := by
  unfold execTapCmd
  dsimp only
  rw [State.idAt_storeCommand, State.storeCommand_media_ack]

theorem execDskRepeat_eq (s : State) (v : Byte) :
    execDskRepeat v s =
      .next ((s.mediaStores .disk s.cachedDisk v).requestMedia
        { kind := .disk, index := s.cachedDisk, cmd := v, dcb := s.addr }) := by
  unfold execDskRepeat State.cachedDisk
  dsimp only
  rw [State.storeCommand_lastDisk, State.storeCommand_media_ack]

theorem State.mediaStores_frame (s : State) (kind : MediaKind) (i : Fin 4) (v : Byte) :
    s.mediaStores kind i v = { s with mem := (s.mediaStores kind i v).mem } :=
  State.memWrite_frame_of_frame (State.memWrites_frame_of_frame (s.storeCommand_frame s.addr v) _) _ _

theorem State.mediaStores_storesOnlyAmong (s : State) (kind : MediaKind) (i : Fin 4) (v : Byte) :
    s.StoresOnlyAmong (s.mediaStores kind i v) (s.addr :: (s.mediaReply kind i v).map Prod.fst) :=
  (s.storeCommand_memWrites_storesOnlyAmong s.addr v _).memWrite
    (State.memWrites_frame_of_frame (s.storeCommand_frame s.addr v) _) List.mem_cons_self _

/-- The acknowledge is the last write, so it stands whatever the media subsystem wrote. -/
theorem State.memRead_mediaStores {s : State} (hi : s.Inv) (hr : s.routed s.addr = true) (kind : MediaKind) (i : Fin 4)
    (v : Byte) : (s.mediaStores kind i v).memRead s.addr = v ||| 0x80#8 :=
  State.memRead_memWrite_routed ((hi.storeCommand _ _).memWrites _) (by simpa using hr) _

/-- What a media command answers, but for the cached disk (R186, R187). -/
theorem State.mediaStores_requestMedia {s t : State} (hi : s.Inv) (hr : s.routed s.addr = true) {kind : MediaKind}
    {i : Fin 4} {v : Byte} {r : MediaRequest} (ht : t = (s.mediaStores kind i v).requestMedia r) :
    t.memRead s.addr = v ||| 0x80#8 ∧
      t.mem = (((s.storeCommand s.addr v).memWrites (s.mediaReply kind i v)).memWrite s.addr (v ||| 0x80#8)).mem ∧
      s.StoresOnlyAmong t (s.addr :: (s.mediaReply kind i v).map Prod.fst) ∧
      t = { s with mem := t.mem, mediaRequests := s.mediaRequests ++ [r] } := by
  subst ht
  refine ⟨?_, State.requestMedia_mem _ _, (s.mediaStores_storesOnlyAmong kind i v).of_mem_eq (State.requestMedia_mem _ _),
    State.requestMedia_frame (s.mediaStores_frame kind i v) r⟩
  rw [State.requestMedia_memRead]
  exact State.memRead_mediaStores hi hr kind i v

/-! ### The indices (R90, R91) -/

/-- The numbers of the disk and of the tape that an identity of their classes names. -/
theorem route_index (id : BitVec 12) :
    ((route id).cls = .dsk → id.toNat = 4 + (diskIndex id).val) ∧
      ((route id).cls = .tap → id.toNat / 16 + 2 * (id.toNat % 2) = (tapeIndex id).val) := by
  by_cases hid : id ∈ tabledIds
  · revert id
    exact List.forall_iff_forall_mem.mp (by decide)
  · rw [route_of_not_tabled hid]
    exact ⟨nofun, nofun⟩

/-- The cached disk is a disk number (R30). -/
theorem State.Inv.cachedDisk_val {s : State} (hi : s.Inv) : s.cachedDisk.val = s.lastDisk.toNat :=
  Nat.mod_eq_of_lt (Nat.lt_succ_of_le hi.lastDisk)

/-! ### The statements -/

/-- Settles O47: both commands write their answer over the stored command and set the status, in either order. -/
theorem keyboardSyncAndProbe : Obligations.KeyboardSyncAndProbe := by
  refine ⟨decode_packed_write (.dcbCmd .kbd) 0x01#8, decode_packed_write (.dcbCmd .kbd) 0x02#8,
    decode_packed_write (.dcbCmd .kbd) 0x03#8, fun s hi ht => ?_⟩
  have hr : s.routed s.addr = true := State.routed_of_target (by simp [ht])
  refine ⟨fun v _ => exec_keyboardReady (v := v) hi hr ?_, exec_keyboardReady (v := 0x03#8) hi hr rfl⟩
  exact congrArg Host.Outcome.next (State.setKbdStatus_memWrite _ kbdReady s.addr kbdReady)

/-- Settles O48: the stores of the read are `State.keysRead`, and the status and the queue are set beside them. -/
theorem keyboardReadDrainsTheQueue : Obligations.KeyboardReadDrainsTheQueue := by
  intro s hi ht p n filled
  have hr : s.routed s.addr = true := State.routed_of_target (by simp [ht])
  refine ⟨_, execKbdReadbuf_keysRead hi, rfl, rfl, fun hfull => ?_, apply_ite State.mem _ _ _,
    s.keysRead_storesOnlyAmong, congrArg (fun u : State => (u.setKbdStatus _).setQueue _) s.keysRead_frame⟩
  have hread : s.keysRead = s.keysStored.memWrite s.addr 0x00#8 := if_pos hfull
  rw [State.setQueue_memRead, State.setKbdStatus_memRead, hread]
  exact State.memRead_memWrite_routed (State.keysStored_inv hi) (by simpa using hr) _

/-- Settles O49: the fill stops at the end of the queue, and nothing is written over the stored command. -/
theorem shortKeyboardReadKeepsTheCommand : Obligations.ShortKeyboardReadKeepsTheCommand := by
  intro s hi ht p n hshort hclear
  have hr : s.routed s.addr = true := State.routed_of_target (by simp [ht])
  have hcount : ¬ n ≤ s.kbdQueue.length := Nat.not_le.mpr hshort
  have hread : s.keysRead = s.keysStored := if_neg hcount
  refine ⟨_, execKbdReadbuf_keysRead hi, if_neg hcount, List.drop_eq_nil_of_le (Nat.le_of_lt hshort), ?_⟩
  rw [State.setQueue_memRead, State.setKbdStatus_memRead, hread, State.memRead_keysStored_command hi hr hclear]
  exact State.memRead_storeCommand_routed hi hr 0x04#8

/-- Settles O50: the buffer's addresses are distinct, so that each key stays where the fill wrote it. -/
theorem keysLandInTheBuffer : Obligations.KeysLandInTheBuffer := by
  intro s j hi ht p n hbuffer hj hne hq
  have hr : s.routed s.addr = true := State.routed_of_target (by simp [ht])
  exact ⟨_, execKbdReadbuf_keysRead hi, State.memRead_keysRead hi hr hbuffer hj hne hq⟩

/-- Settles O51: the acknowledge is written over the stored command, and that is all. -/
theorem printerCommandsAreAcknowledged : Obligations.PrinterCommandsAreAcknowledged := by
  intro s v hi ht hlow hhigh
  have hr : s.routed s.addr = true := State.routed_of_target (by simp [ht])
  exact ⟨decode_packed_command .prn ((isCommand_iff_toNat v).mpr ⟨hlow, hhigh⟩), _, rfl,
    s.storeCommand_memWrite_frame s.addr v (ackOf v), s.storeCommand_memWrite_storesOnlyAt s.addr v (ackOf v),
    State.memRead_storeCommand_memWrite hi hr v (ackOf v)⟩

/-- Settles O52: the stores of a media command, with the request and the cached index beside them. -/
theorem diskCommandsCacheRequestAndAcknowledge : Obligations.DiskCommandsCacheRequestAndAcknowledge := by
  intro s v hi ht hlow hhigh
  have hr : s.routed s.addr = true := State.routed_of_target (by simp [ht])
  obtain ⟨hdisk, -⟩ := route_index (s.idAt s.addr)
  have hrun := execDskCmd_eq s v
  generalize hw : (s.mediaStores .disk _ v).requestMedia _ = w at hrun
  obtain ⟨hread, hmem, honly, hframe⟩ := State.mediaStores_requestMedia hi hr hw.symm
  refine ⟨decode_packed_command .dsk ((isCommand_iff_toNat v).mpr ⟨hlow, hhigh⟩), _, _, hrun,
    hdisk (State.target_dcbCmd ht).2, ?_, hread, hmem, honly.of_mem_eq (State.setLastDisk_mem _ _),
    State.setLastDisk_frame hframe _⟩
  rw [State.setLastDisk_lastDisk, BitVec.toNat_ofNat]
  omega

/-- Settles O53: the stores of a media command, with the request beside them. -/
theorem tapeCommandsRequestAndAcknowledge : Obligations.TapeCommandsRequestAndAcknowledge := by
  intro s v hi ht hlow hhigh
  have hr : s.routed s.addr = true := State.routed_of_target (by simp [ht])
  obtain ⟨-, htape⟩ := route_index (s.idAt s.addr)
  exact ⟨decode_packed_command .tap ((isCommand_iff_toNat v).mpr ⟨hlow, hhigh⟩), _, _, execTapCmd_eq s v,
    htape (State.target_dcbCmd ht).2, State.mediaStores_requestMedia hi hr rfl⟩

/-- Settles O54: as for a tape, on the cached disk. -/
theorem repeatCommandsUseTheCachedDisk : Obligations.RepeatCommandsUseTheCachedDisk := by
  intro s v hi ht hlow hhigh
  have hr : s.routed s.addr = true := State.routed_of_target (by simp [ht])
  exact ⟨decode_packed_command .rpt ((isCommand_iff_toNat v).mpr ⟨hlow, hhigh⟩), _, _, execDskRepeat_eq s v,
    hi.cachedDisk_val, State.mediaStores_requestMedia hi hr rfl⟩

/-- Settles O33: the two branches of KEY, and the low byte as a number. -/
theorem keyEnqueuesOrDrops : Obligations.KeyEnqueuesOrDrops := by
  intro s code
  have hlow : code.extractLsb' 0 8 = BitVec.ofNat 8 (code.toNat % 256) := by
    apply BitVec.eq_of_toNat_eq
    simp
  refine ⟨decodeHost_append 0b10#2 code, ?_⟩
  by_cases hroom : s.kbdQueue.length < s.cfg.kbdQueueCap
  · exact ⟨_, if_pos hroom, fun _ => hlow ▸ rfl, fun hfull => absurd hroom (Nat.not_lt.mpr hfull)⟩
  · exact ⟨s, if_neg hroom, fun h => absurd h hroom, fun _ => rfl⟩

end Sys2Proof.Machine
end

section
/-! SUPPORT. That every access completes, that the outputs are never read back, and what a step does with a mode input
or with none (60_exceptions.md), with the statements about them. -/

namespace Sys2Proof.Machine

/-! ### The outputs are left out (R205; 30_encoding.md R82) -/

section Outputs

variable (s : State)

/-! What an operation looks at is no output. -/

@[simp] theorem State.withoutOutputs_addr : s.withoutOutputs.addr = s.addr := rfl
@[simp] theorem State.withoutOutputs_kbdQueue : s.withoutOutputs.kbdQueue = s.kbdQueue := rfl
@[simp] theorem State.withoutOutputs_cfg : s.withoutOutputs.cfg = s.cfg := rfl
@[simp] theorem State.withoutOutputs_idAt (d : Addr) : s.withoutOutputs.idAt d = s.idAt d := rfl
@[simp] theorem State.withoutOutputs_cachedDisk : s.withoutOutputs.cachedDisk = s.cachedDisk := rfl
@[simp] theorem State.withoutOutputs_relocTarget : s.withoutOutputs.relocTarget = s.relocTarget := rfl
@[simp] theorem State.withoutOutputs_kbdPtr (d : Addr) : s.withoutOutputs.kbdPtr d = s.kbdPtr d := rfl
@[simp] theorem State.withoutOutputs_kbdCnt (d : Addr) : s.withoutOutputs.kbdCnt d = s.kbdCnt d := rfl
@[simp] theorem State.withoutOutputs_operation (x : Access) : s.withoutOutputs.operation x = s.operation x := rfl

/-! What an operation adds to the outputs is left out with them. -/

@[simp] theorem State.withoutOutputs_withoutOutputs : s.withoutOutputs.withoutOutputs = s.withoutOutputs := rfl
@[simp] theorem State.giveData_withoutOutputs (v : Byte) : (s.giveData v).withoutOutputs = s.withoutOutputs := rfl
@[simp] theorem State.logEvent_withoutOutputs (e : LogEvent) : (s.logEvent e).withoutOutputs = s.withoutOutputs := rfl
@[simp] theorem State.requestMedia_withoutOutputs (r : MediaRequest) :
    (s.requestMedia r).withoutOutputs = s.withoutOutputs := rfl

/-- A request goes out beside the cached disk, in either order. -/
theorem State.requestMedia_setLastDisk (r : MediaRequest) (v : Byte) :
    (s.requestMedia r).setLastDisk v = (s.setLastDisk v).requestMedia r := rfl

/-! Every other update may as well be made without them. -/

@[simp] theorem State.withoutOutputs_presented (a : Addr) (rest : List Input) :
    s.withoutOutputs.presented a rest = (s.presented a rest).withoutOutputs := rfl
@[simp] theorem State.withoutOutputs_accept (rest : List Input) :
    s.withoutOutputs.accept rest = (s.accept rest).withoutOutputs := rfl
@[simp] theorem State.withoutOutputs_setMode (m : Nat) :
    s.withoutOutputs.setMode m = (s.setMode m).withoutOutputs := rfl
@[simp] theorem State.withoutOutputs_setKbdStatus (v : Byte) :
    s.withoutOutputs.setKbdStatus v = (s.setKbdStatus v).withoutOutputs := rfl
@[simp] theorem State.withoutOutputs_setCount (v : Byte) :
    s.withoutOutputs.setCount v = (s.setCount v).withoutOutputs := rfl
@[simp] theorem State.withoutOutputs_setLastDisk (v : Byte) :
    s.withoutOutputs.setLastDisk v = (s.setLastDisk v).withoutOutputs := rfl
@[simp] theorem State.withoutOutputs_setQueue (q : List Byte) :
    s.withoutOutputs.setQueue q = (s.setQueue q).withoutOutputs := rfl
@[simp] theorem State.withoutOutputs_relocate (t : Addr) :
    s.withoutOutputs.relocate t = (s.relocate t).withoutOutputs := rfl

@[simp] theorem State.withoutOutputs_memWrite (a : Addr) (v : Byte) :
    s.withoutOutputs.memWrite a v = (s.memWrite a v).withoutOutputs := by
  unfold State.memWrite
  rw [apply_ite State.withoutOutputs]
  rfl

@[simp] theorem State.withoutOutputs_memWrites (ws : List (Addr × Byte)) :
    s.withoutOutputs.memWrites ws = (s.memWrites ws).withoutOutputs :=
  State.memWrites_comm State.withoutOutputs_memWrite s ws

@[simp] theorem State.withoutOutputs_storeCommand (d : Addr) (v : Byte) :
    s.withoutOutputs.storeCommand d v = (s.storeCommand d v).withoutOutputs := by
  unfold State.storeCommand
  simp only [State.withoutOutputs_memWrite, apply_ite State.withoutOutputs]
  rfl

@[simp] theorem State.withoutOutputs_storeEcho (v : Byte) :
    s.withoutOutputs.storeEcho v = (s.storeEcho v).withoutOutputs := by
  simp [State.storeEcho]

@[simp] theorem State.withoutOutputs_ack (d : Addr) (v : Byte) :
    s.withoutOutputs.ack d v = (s.ack d v).withoutOutputs := s.withoutOutputs_memWrite d (ackOf v)

@[simp] theorem State.withoutOutputs_filled (p : Addr) (n : Nat) :
    s.withoutOutputs.filled p n = (s.filled p n).withoutOutputs := by
  simp [State.filled]

/-- The media subsystem is given the page maps and memory, and no output (43_devices.md R186). -/
theorem State.withoutOutputs_mediaReply (kind : MediaKind) (i : Fin 4) (v : Byte) :
    s.withoutOutputs.mediaReply kind i v = s.mediaReply kind i v := by
  unfold State.mediaReply
  rw [State.withoutOutputs_storeCommand]
  rfl

@[simp] theorem State.withoutOutputs_mediaStores (kind : MediaKind) (i : Fin 4) (v : Byte) :
    s.withoutOutputs.mediaStores kind i v = (s.mediaStores kind i v).withoutOutputs := by
  simp [State.mediaStores, State.withoutOutputs_mediaReply]

end Outputs

/-! ### Outcomes without outputs -/

/-- An outcome, with the outputs of its next state left out. -/
def outcomeWithoutOutputs : Host.Outcome State Fault Refusal → Host.Outcome State Fault Refusal
  | .next t => .next t.withoutOutputs
  | .fault f => .fault f
  | .refused r => .refused r

theorem outcomeWithoutOutputs_eq_next {o : Host.Outcome State Fault Refusal} {u : State}
    (h : outcomeWithoutOutputs o = .next u) : ∃ t, o = .next t ∧ u = t.withoutOutputs := by
  cases o with
  | next t => exact ⟨t, rfl, (Host.Outcome.next.inj h).symm⟩
  | fault f => cases h
  | refused r => cases h

@[simp] theorem outcomeWithoutOutputs_next (t : State) : outcomeWithoutOutputs (.next t) = .next t.withoutOutputs := rfl

theorem execKbdReadbuf_withoutOutputs (s : State) :
    outcomeWithoutOutputs (execKbdReadbuf s.withoutOutputs) = outcomeWithoutOutputs (execKbdReadbuf s) := by
  simp [execKbdReadbuf_eq, apply_ite outcomeWithoutOutputs]

theorem execKey_withoutOutputs (code : BitVec 16) (s : State) :
    outcomeWithoutOutputs (execKey code s.withoutOutputs) = outcomeWithoutOutputs (execKey code s) := by
  by_cases hroom : s.kbdQueue.length < s.cfg.kbdQueueCap <;> simp [execKey, hroom]

theorem execDskCmd_withoutOutputs (v : Byte) (s : State) :
    outcomeWithoutOutputs (execDskCmd v s.withoutOutputs) = outcomeWithoutOutputs (execDskCmd v s) := by
  simp [execDskCmd_eq, State.requestMedia_setLastDisk]

theorem execTapCmd_withoutOutputs (v : Byte) (s : State) :
    outcomeWithoutOutputs (execTapCmd v s.withoutOutputs) = outcomeWithoutOutputs (execTapCmd v s) := by
  simp [execTapCmd_eq]

theorem execDskRepeat_withoutOutputs (v : Byte) (s : State) :
    outcomeWithoutOutputs (execDskRepeat v s.withoutOutputs) = outcomeWithoutOutputs (execDskRepeat v s) := by
  simp [execDskRepeat_eq]

/-- No operation reads an output: started without them, it ends in the same state but for the outputs. -/
theorem exec_withoutOutputs (s : State) :
    ∀ i, outcomeWithoutOutputs (exec i s.withoutOutputs) = outcomeWithoutOutputs (exec i s)
  | .reset => rfl
  | .plainRd | .hdrRd _ | .dcbCmdRd _ | .dcbParRd | .kbdStatusRd | .plainWr _ | .hdrNop | .hdrHigh _ | .hdrParamWr _
  | .dcbParWr _ | .hdrSyncCpu | .hdrSyncPctl | .hdrRelocate | .hdrUnimpl _ | .hdrCountWr _
  | .dcbCmdIgnore _ _ | .unkNak _ | .kbdSync _ | .kbdProbe | .kbdUndef _ | .prnCmd _ =>
    congrArg Host.Outcome.next (by simp)
  | .kbdReadbuf => execKbdReadbuf_withoutOutputs s
  | .dskCmd v => execDskCmd_withoutOutputs v s
  | .tapCmd v => execTapCmd_withoutOutputs v s
  | .dskRepeat v => execDskRepeat_withoutOutputs v s
  | .key code => execKey_withoutOutputs code s

/-- A step takes its input and runs its operation alike from a state and from that state without outputs. -/
theorem step_withoutOutputs (s : State) :
    outcomeWithoutOutputs (step s.withoutOutputs) = outcomeWithoutOutputs (step s) := by
  cases hin : s.inputs with
  | nil =>
    rw [step_idle hin, step_idle (s := s.withoutOutputs) hin]
    rfl
  | cons x rest =>
    cases x with
    | cpu w =>
      rw [step_cpu hin, step_cpu (s := s.withoutOutputs) hin, State.withoutOutputs_operation,
        State.withoutOutputs_presented, exec_withoutOutputs]
    | host w =>
      rw [step_host hin, step_host (s := s.withoutOutputs) hin, State.withoutOutputs_accept]
      cases decodeHost w with
      | ok i => exact exec_withoutOutputs (s.accept rest) i
      | error r => rfl
    | mode m =>
      rw [step_mode hin, step_mode (s := s.withoutOutputs) hin]
      by_cases hm : m < s.cfg.modes.length <;> simp [hm]

/-! ### Reads -/

/-- Every read operation puts a byte on the port, and does nothing else (R200). -/
theorem exec_decodeRead (s : State) : ∀ t : Target, ∃ v, exec (decodeRead t) s = .next (s.giveData v)
  | .plain | .hdr _ | .dcbPar | .dcbCmd .prn | .dcbCmd .dsk | .dcbCmd .tap | .dcbCmd .rpt | .dcbCmd .unk =>
    ⟨s.memRead s.addr, rfl⟩
  | .dcbCmd .kbd => ⟨s.kbdStatus, rfl⟩

/-! ### The statements -/

/-- Settles O12: an access runs its operation, which answers a next state; `Fault` has no constructor. -/
theorem everyTransactionCompletes : Obligations.EveryTransactionCompletes := by
  refine ⟨fun s w rest hin => ?_, fun _ f => nomatch f⟩
  rw [step_cpu hin]
  generalize Access.ofWord w = x
  obtain ⟨t, hrun, -, -, hinputs, -⟩ := exec_next (s.operation x) (s.presented x.addr rest)
  refine ⟨t, hrun, hinputs, fun hread => ?_⟩
  rw [State.operation_of_read hread] at hrun
  obtain ⟨v, hv⟩ := exec_decodeRead (s.presented x.addr rest) (s.target x.addr)
  obtain rfl := Host.Outcome.next.inj (hv.symm.trans hrun)
  exact ⟨v, rfl⟩

/-- Settles O29: both steps do what the step from their common state without outputs does. -/
theorem outputsAreNeverReadBack : Obligations.OutputsAreNeverReadBack := by
  intro s s' t hsame hstep
  refine outcomeWithoutOutputs_eq_next ?_
  calc outcomeWithoutOutputs (step s')
      = outcomeWithoutOutputs (step s) := by rw [← step_withoutOutputs s', ← hsame, step_withoutOutputs s]
    _ = .next t.withoutOutputs := by rw [hstep]; rfl

/-- Settles O11: the two steps that run no operation. -/
theorem modeInputsAndIdleSteps : Obligations.ModeInputsAndIdleSteps :=
  ⟨fun _ _ _ hin hm => (step_mode hin).trans (if_pos hm), fun _ hin => step_idle hin⟩

end Sys2Proof.Machine
end

section
/-! SUPPORT. Reset, and what governs liveness and slot 0's command byte at once (70_reset_and_hazards.md), with the
statements of that family. -/

namespace Sys2Proof.Machine

/-! ### The window at reset (R230) -/

/-- The window at the reset base ends below the top of the address space, so that it is an interval (R234). -/
theorem offset_from_resetBase_lt_iff (a : Addr) :
    (a - 0xFEC0#16).toNat < 319 ↔ 0xFEC0 ≤ a.toNat ∧ a.toNat < 0xFEC0 + 319 := by
  have ha := a.isLt
  rw [BitVec.toNat_sub]
  simp only [BitVec.toNat_ofNat]
  omega

/-! ### Slot 0's command byte (R155, R247) -/

theorem ackOf_bitSeven (v : Byte) : 0x80 ≤ (ackOf v).toNat := by
  unfold ackOf
  rw [BitVec.toNat_or]
  exact Nat.right_le_or

/-- Slot 0's command byte, where it is live, is a device command byte (R83). -/
theorem State.target_slotZero {s : State} (hi : s.Inv) (hlive : s.isLive (s.base + 4#16) = true) :
    s.target (s.base + 4#16) = .dcbCmd (route (s.idAt (s.base + 4#16))).cls := by
  obtain ⟨hr, hbound⟩ := (livenessUnderTheInvariant s _ hi).mp hlive
  have hoff : (s.base + 4#16 - s.base).toNat = 4 := s.off_base_add (k := 4) (by decide)
  obtain ⟨-, -, -, hcommand, -⟩ := targetsFollowTheWindowGeometry s hi
  exact hcommand _ 0 hr (by omega) rfl

theorem Device.cls_eq_kbd_iff (d : Device) : d.cls = .kbd ↔ d = .keyboard := by
  cases d <;> simp [Device.cls]

section SlotZero

variable {s : State} (hi : s.Inv) (hr : s.routed s.addr = true) (hzero : s.addr = s.base + 4#16)
include hi hr

include hzero in
/-- The echo leaves bit 7 set in slot 0 where no device writes after it. -/
theorem State.storeCommand_slotZero_bitSeven (v : Byte) :
    0x80 ≤ ((s.storeCommand s.addr v).memRead s.addr).toNat := by
  rw [State.memRead_storeCommand_routed hi hr, if_pos hzero]
  exact ackOf_bitSeven v

/-- A media command ends with its acknowledge, whatever the media subsystem wrote (R180, R181, R183). -/
theorem State.mediaStores_requestMedia_bitSeven (kind : MediaKind) (i : Fin 4) (v : Byte) (r : MediaRequest) :
    0x80 ≤ (((s.mediaStores kind i v).requestMedia r).memRead s.addr).toNat := by
  rw [State.requestMedia_memRead, State.memRead_mediaStores hi hr]
  exact ackOf_bitSeven v

/-- So does a command over which the device writes an answer of its own that has bit 7 set. -/
theorem State.storeCommand_memWrite_bitSeven (v : Byte) {r : Byte} (h : 0x80 ≤ r.toNat) :
    0x80 ≤ (((s.storeCommand s.addr v).memWrite s.addr r).memRead s.addr).toNat := by
  rwa [State.memRead_storeCommand_memWrite hi hr]

include hzero in
/-- The keyboard's commands but the read: an answer over the command, or the slot-0 echo alone (R171 to R173). -/
theorem exec_keyboardCommand_slotZero {v : Byte} (hread : v ≠ 0x04#8) :
    ∃ t, exec (decodeDeviceCommand .kbd v) s = .next t ∧ 0x80 ≤ (t.memRead s.addr).toNat := by
  unfold decodeDeviceCommand
  split_ifs with hsync hprobe
  · refine ⟨_, congrArg Host.Outcome.next (State.setKbdStatus_memWrite _ kbdReady s.addr kbdReady), ?_⟩
    rw [State.setKbdStatus_memRead]
    exact State.storeCommand_memWrite_bitSeven hi hr v (r := kbdReady) (by decide)
  · refine ⟨_, rfl, ?_⟩
    rw [State.setKbdStatus_memRead]
    exact State.storeCommand_memWrite_bitSeven hi hr 0x03#8 (r := nakByte) (by decide)
  · exact ⟨_, rfl, State.storeCommand_slotZero_bitSeven hi hr hzero v⟩

include hzero in
/-- A command in slot 0, device by device. -/
theorem exec_deviceCommand_slotZero {dev : DevClass} {v : Byte} (hread : v = 0x04#8 → dev ≠ .kbd) :
    ∃ t, exec (decodeDeviceCommand dev v) s = .next t ∧ 0x80 ≤ (t.memRead s.addr).toNat := by
  cases dev with
  | kbd => exact exec_keyboardCommand_slotZero hi hr hzero fun hv => hread hv rfl
  | prn => exact ⟨_, rfl, State.storeCommand_memWrite_bitSeven hi hr v (ackOf_bitSeven v)⟩
  | dsk =>
    refine ⟨_, execDskCmd_eq s v, ?_⟩
    rw [State.setLastDisk_memRead]
    exact State.mediaStores_requestMedia_bitSeven hi hr _ _ v _
  | tap => exact ⟨_, execTapCmd_eq s v, State.mediaStores_requestMedia_bitSeven hi hr _ _ v _⟩
  | rpt => exact ⟨_, execDskRepeat_eq s v, State.mediaStores_requestMedia_bitSeven hi hr _ _ v _⟩
  | unk =>
    refine ⟨_, rfl, ?_⟩
    rw [State.logEvent_memRead]
    exact State.storeCommand_memWrite_bitSeven hi hr v (r := nakByte) (by decide)

end SlotZero

/-! ### The statements -/

/-- Settles O55: an ignored value is echoed, and every command but the keyboard read ends with bit 7 set. -/
theorem slotZeroCommandByteKeepsBitSeven : Obligations.SlotZeroCommandByteKeepsBitSeven := by
  intro s v rest hi hlive hin hread
  have hi' := hi.presented (s.base + 4#16) rest
  have hr : s.routed (s.base + 4#16) = true := State.isLive_routed hlive
  rw [step_write hin, State.target_slotZero hi hlive]
  generalize hdev : (route (s.idAt (s.base + 4#16))).cls = dev
  cases hv : isCommand v with
  | true =>
    rw [decodeWrite_of_command dev hv]
    exact exec_deviceCommand_slotZero hi' hr rfl fun h4 hkbd =>
      hread h4 ((Device.cls_eq_kbd_iff _).mp (hdev.trans hkbd))
  | false =>
    rw [decodeWrite_of_ignored dev ((isCommand_eq_false_iff v).mp hv)]
    exact ⟨_, rfl, State.storeCommand_slotZero_bitSeven hi' hr rfl v⟩

/-- Settles O40: the write keeps the invariant, under which the count alone bounds the live offsets. -/
theorem countTakesEffectAtOnce : Obligations.CountTakesEffectAtOnce := by
  intro s v hi _
  refine ⟨(s.storeEcho v).setCount (capCount v), rfl, fun a => ?_⟩
  rw [livenessUnderTheInvariant _ a ((hi.storeEcho v).setCount (capCount_le v)), State.setCount_routed,
    State.storeEcho_routed, State.setCount_base, State.storeEcho_base, State.setCount_count, capCount_toNat]

/-- Settles O31: the presence table is the window at the reset base, and the other fields are as they are set. -/
theorem resetReinitialisesTheBlock : Obligations.ResetReinitialisesTheBlock :=
  ⟨decodeHost_append 0b01#2 0#16, fun _ => ⟨_, rfl, Presence.flag_window 0xFEC0#16, rfl⟩⟩

/-- Settles O32: 15 slots end where the window ends, so that flag and bound are the same condition. -/
theorem livenessAfterReset : Obligations.LivenessAfterReset := by
  intro s
  obtain ⟨-, hreset⟩ := resetReinitialisesTheBlock
  obtain ⟨t, hrun, hflag, hframe⟩ := hreset s
  refine ⟨t, hrun, fun a => ?_⟩
  have hroute : t.routed a = s.routed a := by rw [hframe]; rfl
  have hbase : t.base = 0xFEC0#16 := congrArg State.base hframe
  have hbound : t.liveBound = 319 := congrArg State.liveBound hframe
  rw [State.isLive_iff, hflag, hroute, hbound, State.off, hbase, decide_eq_true_eq, offset_from_resetBase_lt_iff]
  exact ⟨fun ⟨hin, hr, _⟩ => ⟨hr, hin⟩, fun ⟨hr, hin⟩ => ⟨hin, hr, hin⟩⟩

/-- Settles O30: the values stand in `State.reset`; its table is the window at the reset base. -/
theorem resetValues : Obligations.ResetValues := by
  refine ⟨rfl, rfl, rfl, rfl, rfl, fun a => ?_⟩
  have hflag : State.reset.presence.flag a = decide ((a - 0xFEC0#16).toNat < 319) := Presence.flag_window 0xFEC0#16 a
  rw [hflag, decide_eq_decide, offset_from_resetBase_lt_iff]
  omega

end Sys2Proof.Machine
end
